-- ==== Sys2Proof/Word.lean ====
section
/-! DEFINITION. The widths of the machine's values (R11, R21, R32): bytes, instruction words, 64-bit values and
addresses, register numbers. -/

namespace Sys2Proof

/-- The unit of addressing (R32). -/
abbrev Byte := BitVec 8

/-- An instruction word (R70), and a 32-bit value. -/
abbrev Word := BitVec 32

/-- A 64-bit value: a register, the stack pointer, the program counter, an address (R21, R24, R25, R32). -/
abbrev DWord := BitVec 64

/-- A register number: a 5-bit field of the instruction (R21). -/
abbrev RegNum := BitVec 5

end Sys2Proof
end

