-- ==== Sys2Proof/Config.lean ====
section
/-! DEFINITION. The implementation parameters of R10 as one record of plain data, and the free values of the model (`draw T`
of R12), which are opaque. -/

namespace Sys2Proof

/-- The values `ConstrainUnpredictable` may return for the two overlaps of a store (R96, R97). -/
inductive Constraint where
  | unknown
  | none
  | undef
  | nop
  deriving DecidableEq, Repr

/-- The values it may return for the load-pair overlap, which STLXR never consults (R106). -/
inductive LdpConstraint where
  | unknown
  | undef
  | nop
  deriving DecidableEq, Repr

/-- `ABORT_WHEN_MONITOR_FAILS` (R45, D15): whether an access that would abort is reported when the monitor test fails. -/
inductive AbortPolicy where
  | always
  | never
  | either
  deriving DecidableEq, Repr

/-- `SBO_POLICY` (R76, D19): the treatment of a word whose bits 14:10 are not `11111`. -/
inductive SboPolicy where
  | refuse
  | undef
  | nop
  | ignore
  deriving DecidableEq, Repr

/-- A range of `len` bytes from `base` that a write of 4 bytes (`word`) or of 8 bytes (`doubleword`) may touch (R47).
DESIGN CHOICE, safe (log 7): the spec's `Accessible` is a predicate of the address and the size; a finite list of
regions expresses every such predicate. -/
structure Region where
  base : DWord
  len : Nat
  word : Bool
  doubleword : Bool
  deriving DecidableEq, Repr

/-- The parameters of R10. They are constant during a run (R145). DESIGN CHOICE, safe (log 1): the record stands in
State, as part of the launch state of R140, and no step changes it. -/
structure Config where
  /-- `HAVE_MTE`; TRUE is refused (D17). -/
  haveMte : Bool
  /-- `BIG_ENDIAN`, the byte order of the data write (R43, D8). -/
  bigEndian : Bool
  /-- `CONSTRAIN_DATAOVERLAP` (R96, D18). -/
  constrainDataOverlap : Constraint
  /-- `CONSTRAIN_BASEOVERLAP` (R97, D18). -/
  constrainBaseOverlap : Constraint
  /-- `CONSTRAIN_LDPOVERLAP`: never consulted by STLXR (R106). -/
  constrainLdpOverlap : LdpConstraint
  /-- `ABORT_WHEN_MONITOR_FAILS` (R45, D15). -/
  abortWhenMonitorFails : AbortPolicy
  /-- `SP_ALIGN_CHECK` (R46, D16). -/
  spAlignCheck : Bool
  /-- `UNMARKED_STORE_MAY_SUCCEED` (R53, D13). -/
  unmarkedStoreMaySucceed : Bool
  /-- `SBO_POLICY` (R76, D19). -/
  sboPolicy : SboPolicy
  /-- `Accessible` (R47, D9), as the regions a write may touch. -/
  accessibleRegions : List Region
  /-- `prog`, the program text (R61, D3). -/
  prog : List Word
  /-- `base`, where the program text stands (D4). -/
  base : DWord
  deriving DecidableEq, Repr

/-- The free values one execution of an instruction may use (R12 `draw T`, R52, R96, R97). Nothing constrains them. -/
structure Draw where
  /-- Which outcome the access takes when R52 admits both Fail and another. -/
  storeFails : Bool
  /-- The UNKNOWN address of R97 (U5). -/
  address : DWord
  /-- The UNKNOWN data of R96 (U4); the 32-bit variant uses the low 32 bits. -/
  data : DWord
  deriving DecidableEq, Repr

/-- Free value (log 9): the monitor's choice at the k-th draw. -/
opaque Config.freeFails : Nat → Bool

/-- Free value (log 9): the UNKNOWN address at the k-th draw. -/
opaque Config.freeAddress : Nat → DWord

/-- Free value (log 9): the UNKNOWN data at the k-th draw. -/
opaque Config.freeData : Nat → DWord

/-- The k-th draw: "each execution draws afresh" (R145). -/
def Draw.fresh (k : Nat) : Draw :=
  { storeFails := Config.freeFails k, address := Config.freeAddress k, data := Config.freeData k }

end Sys2Proof
end

