-- ==== Sys2Proof/Syntax.lean ====
section
/-! DEFINITION. The instructions of spec/opcode_table.json (R2, R74): the two variants of STLXR, with their operands as
decoded register numbers. -/

namespace Sys2Proof

/-- The two data sizes, one per variant (R2, R41). -/
inductive AccessSize where
  | word
  | doubleword
  deriving DecidableEq, Repr

/-- `STLXR <Ws>, <Wt>, [<Xn|SP>{,#0}]` and `STLXR <Ws>, <Xt>, [<Xn|SP>{,#0}]` (R90, R91). The operands are the numbers
of the status register, of the base and of the data register, in the order of R77; every combination is an instruction
(R74). -/
inductive Instr where
  | stlxr32 (rs rn rt : RegNum)
  | stlxr64 (rs rn rt : RegNum)
  deriving DecidableEq, Repr

/-- The data size a variant transfers (R41). -/
def Instr.size : Instr → AccessSize
  | .stlxr32 _ _ _ => .word
  | .stlxr64 _ _ _ => .doubleword

/-- The status register's number `s` (R92). -/
def Instr.rs : Instr → RegNum
  | .stlxr32 rs _ _ => rs
  | .stlxr64 rs _ _ => rs

/-- The base register's number `n` (R92). -/
def Instr.rn : Instr → RegNum
  | .stlxr32 _ rn _ => rn
  | .stlxr64 _ rn _ => rn

/-- The data register's number `t` (R92). -/
def Instr.rt : Instr → RegNum
  | .stlxr32 _ _ rt => rt
  | .stlxr64 _ _ rt => rt

end Sys2Proof
end

