-- ==== Sys2Proof/WellFormed.lean ====
section
/-! DEFINITION. What a well-formed launch configuration is (R141), and which forms of the instruction are free of the two
CONSTRAINED UNPREDICTABLE overlaps (R96, R97, D18). An `Instr` itself is well formed by its type: its fields are 5 bits
wide, and every combination of them is an instruction (R74). -/

namespace Sys2Proof

/-- "`base` is a multiple of 4" (R141). -/
def Config.baseAligned (c : Config) : Bool :=
  c.base.toNat % 4 == 0

/-- "`base + 4 * len(prog)` is less than 2 to the 64" (R141). -/
def Config.textFits (c : Config) : Bool :=
  decide (c.base.toNat + 4 * c.prog.length < 2 ^ 64)

/-- The premises R141 puts on the program text. -/
def Config.wellFormed (c : Config) : Bool :=
  c.baseAligned && c.textFits

/-- `s == t`: the data overlap of R96. It has no exemption for number 31. -/
def Instr.dataOverlaps (i : Instr) : Bool :=
  i.rs == i.rt

/-- `s == n && n != 31`: the base overlap of R97. -/
def Instr.baseOverlaps (i : Instr) : Bool :=
  i.rs == i.rn && i.rn != 31#5

/-- The forms D18 calls well-formed programs' forms: no overlap. -/
def Instr.overlapFree (i : Instr) : Bool :=
  !i.dataOverlaps && !i.baseOverlaps

end Sys2Proof
end

