-- ==== Sys2Proof/Decode.lean ====
section
/-! DEFINITION. The total decoder of R77, the encoder from R71, the decode constants of R92 and R93, the bytes of a word
(R61, D3), and the host's `decodeTableWord`. -/

namespace Sys2Proof

/-- A verdict of the decoder (R77). -/
inductive Verdict where
  /-- The word is this STLXR. -/
  | instr (i : Instr)
  /-- `SBOViolation`: bits 14:10 are not `11111`; `i` is the STLXR with the same size, Rs, Rn and Rt, which only the
  policy `ignore` uses (R76). -/
  | sboViolation (i : Instr)
  /-- `NotInScope`: no source describes the word (R78). -/
  | notInScope
  deriving DecidableEq, Repr

/-- Field `Rs`, bits 20:16 (R71). -/
def fieldRs (w : Word) : RegNum := w.extractLsb' 16 5

/-- Field `Rt2`, bits 14:10 (R71). -/
def fieldRt2 (w : Word) : RegNum := w.extractLsb' 10 5

/-- Field `Rn`, bits 9:5 (R71). -/
def fieldRn (w : Word) : RegNum := w.extractLsb' 5 5

/-- Field `Rt`, bits 4:0 (R71). -/
def fieldRt (w : Word) : RegNum := w.extractLsb' 0 5

/-- Field `size`, bits 31:30 (R71). -/
def fieldSize (w : Word) : BitVec 2 := w.extractLsb' 30 2

/-- Field `L`, bit 22 (R71, R73). -/
def fieldL (w : Word) : BitVec 1 := w.extractLsb' 22 1

/-- Field `o0`, bit 15 (R71). -/
def fieldO0 (w : Word) : BitVec 1 := w.extractLsb' 15 1

/-- The variant the low bit of `size` selects (R75), with the word's own operands. -/
def instrOfFields (w : Word) : Instr :=
  if w.getLsbD 30 then .stlxr64 (fieldRs w) (fieldRn w) (fieldRt w)
  else .stlxr32 (fieldRs w) (fieldRn w) (fieldRt w)

/-- The decoder of R77, its four tests in its order. -/
def decode (w : Word) : Verdict :=
  if w &&& 0xFFE0FC00#32 == 0x8800FC00#32 then .instr (.stlxr32 (fieldRs w) (fieldRn w) (fieldRt w))
  else if w &&& 0xFFE0FC00#32 == 0xC800FC00#32 then .instr (.stlxr64 (fieldRs w) (fieldRn w) (fieldRt w))
  else if w &&& 0xBFE08000#32 == 0x88008000#32 then .sboViolation (instrOfFields w)
  else .notInScope

/-- The value of field `size` for a data size (R71): `10` or `11`. -/
def AccessSize.field : AccessSize → BitVec 2
  | .word => 0b10#2
  | .doubleword => 0b11#2

/-- The word of an instruction, field by field from R71's table. -/
def encode (i : Instr) : Word :=
  i.size.field ++ 0b001000#6 ++ 0#1 ++ 0#1 ++ 0#1 ++ i.rs ++ 1#1 ++ 0b11111#5 ++ i.rn ++ i.rt

/-- `elsize = 8 << UInt(size)` (R93). -/
def elsize (size : BitVec 2) : Nat := 8 <<< size.toNat

/-- `dbytes = datasize DIV 8`, with `datasize = elsize` because `pair` is FALSE (R40, R93). -/
def AccessSize.dbytes (sz : AccessSize) : Nat := elsize sz.field / 8

/-- The access types the decode pseudocode chooses between (R93). -/
inductive AccType where
  | orderedAtomic
  | atomic
  deriving DecidableEq, Repr

/-- The directions the decode pseudocode chooses between (R93). -/
inductive MemOp where
  | load
  | store
  deriving DecidableEq, Repr

/-- The variables the decode pseudocode of R108 (E-2020-09) computes before the overlap checks. -/
structure DecodeConstants where
  n : Nat
  t : Nat
  t2 : Nat
  s : Nat
  acctype : AccType
  pair : Bool
  memop : MemOp
  elsize : Nat
  regsize : Nat
  datasize : Nat
  tagChecked : Bool
  deriving DecidableEq, Repr

/-- `acctype = if o0 == '1' then AccType_ORDEREDATOMIC else AccType_ATOMIC` (R93). -/
def acctypeOf (o0 : BitVec 1) : AccType :=
  if o0 == 1#1 then .orderedAtomic else .atomic

/-- The decode pseudocode of R92 and R93 on a word. `pair` is a constant of the page (R107). -/
def decodeConstants (w : Word) : DecodeConstants where
  n := (fieldRn w).toNat
  t := (fieldRt w).toNat
  t2 := (fieldRt2 w).toNat
  s := (fieldRs w).toNat
  acctype := acctypeOf (fieldO0 w)
  pair := false
  memop := if fieldL w == 1#1 then .load else .store
  elsize := elsize (fieldSize w)
  regsize := if elsize (fieldSize w) = 64 then 64 else 32
  datasize := elsize (fieldSize w)
  tagChecked := (fieldRn w).toNat != 31

/-- A word as it stands in memory: least significant byte at the lowest address, whatever the data byte order (R61). -/
def bytesOfWord (w : Word) : List Byte :=
  [w.extractLsb' 0 8, w.extractLsb' 8 8, w.extractLsb' 16 8, w.extractLsb' 24 8]

/-- Why a list of bytes holds no instruction. -/
inductive DecodeReject where
  /-- Fewer than the four bytes of a word (R70, R80). -/
  | truncated
  /-- R77's `Refused(SBOViolation)`. -/
  | sboViolation
  /-- R77's `Refused(NotInScope)`. -/
  | notInScope
  deriving DecidableEq, Repr

/-- The decoder on any bytes: the first word's instruction with the bytes after it, or a rejection by name. -/
def decodeBytes : List Byte → Except DecodeReject (Instr × List Byte)
  | b0 :: b1 :: b2 :: b3 :: rest =>
    match decode (b3 ++ b2 ++ b1 ++ b0) with
    | .instr i => .ok (i, rest)
    | .sboViolation _ => .error .sboViolation
    | .notInScope => .error .notInScope
  | _ => .error .truncated

/-- The instruction the decoder reads from the table's word `w` of `nbits` bits, laid out in memory order. -/
def decodeTableWord (nbits w : Nat) : Option Instr :=
  match decodeBytes (bytesOfWord (BitVec.ofNat 32 (w % 2 ^ nbits))) with
  | .ok (i, _) => some i
  | .error _ => none

end Sys2Proof
end

