-- ==== Sys2Proof/Machine/State.lean ====
section
/-! DEFINITION. The state of the one processing element (R20), the reasons a step can stop (R120, R142), and the launch
state the model names `State.reset` (R34, R140). -/

namespace Sys2Proof.Machine

/-- The Exclusives monitors (R29, D11): one component for local and global together. -/
inductive Monitor where
  /-- `Open`: exclusive access to nothing. -/
  | opened
  /-- `Exclusive(base, len)`: the range most recently marked. -/
  | exclusive (base : DWord) (len : Nat)
  deriving DecidableEq, Repr

/-- The kinds of Data Abort (R120). -/
inductive AbortKind where
  | alignment
  | other
  deriving DecidableEq, Repr

/-- The terminal outcomes `Fault(E, info, pc)` of R129; `pc` addresses the instruction that raised it (R25, R128). Each is
the spec's own treatment of an exception (D21), and safe: a real PE would go on in a handler the spec does not describe. -/
inductive Fault where
  /-- `Undefined()` (R121): raised by an overlap under `Constraint_UNDEF` and by SBO_POLICY `undef`. Safe. -/
  | undefined (pc : DWord)
  /-- `SPAlignment()` (R122): raised by the check of the stack pointer. Safe. -/
  | spAlignment (pc : DWord)
  /-- `DataAbort(kind, address)` (R123, R124): raised by the access. Safe. -/
  | dataAbort (kind : AbortKind) (address : DWord) (pc : DWord)
  /-- `PCAlignment()` (R25, R141): raised by the fetch. Safe. -/
  | pcAlignment (pc : DWord)
  deriving DecidableEq, Repr

/-- The refusals of R142, and the end of a run. All are safe: the model says nothing further. -/
inductive Refusal where
  /-- An instruction the model gives no meaning yet; raised by no arm of exec. Safe. -/
  | notModelled (mnemonic : String)
  /-- `Refused(NotInScope)` (R77): raised by the fetch of a word no source describes. Safe. -/
  | notInScope
  /-- `Refused(SBOViolation)` (R76, R77): raised by the fetch under SBO_POLICY `refuse`. Safe. -/
  | sboViolation
  /-- `Refused(FetchOutsideProgram)` (R141): raised by the fetch. Safe. -/
  | fetchOutsideProgram
  /-- `Refused(StoreIntoProgramText)` (R61, D27): raised by the access. Safe. -/
  | storeIntoProgramText
  /-- `Refused(TaggingConfigured)` (D17): raised by a machine with HAVE_MTE. Safe. -/
  | taggingConfigured
  /-- The run is over (R142): raised by the run loop at `pc == base + 4 * len(prog)`; the spec says nothing of what a PE
  does next, and this is not one of its recorded refusals (log 10). Safe. -/
  | runOver
  deriving DecidableEq, Repr

/-- What the component `outcome` of R20 records. -/
inductive Terminal where
  | faulted (f : Fault)
  | refused (r : Refusal)
  deriving DecidableEq, Repr

/-- Memory (R32): the bytes that differ from what an unlisted address reads as, at strictly rising addresses. -/
abbrev Memory := List Host.Cell

/-- A data write as an event (R59, D26): its access type carries the attributes `exclusive` and `release`. -/
structure WriteEvent where
  address : DWord
  size : AccessSize
  data : DWord
  acctype : AccType
  deriving DecidableEq, Repr

/-- The components of R20, the configuration of R10 (log 1), the write events of R59 (log 8) and the model's own free
values (log 9). -/
structure State where
  /-- `x[0]` to `x[30]` (R21). -/
  x : Vector DWord 31
  /-- The stack pointer (R24). -/
  sp : DWord
  /-- The program counter (R25). -/
  pc : DWord
  /-- `PSTATE.DIT` (R27). -/
  dit : Bool
  /-- The Exclusives monitors (R28, R29). -/
  mon : Monitor
  /-- The tag-checked-instruction mark (R20, R31): absent unless `HAVE_MTE`. -/
  tagChecked : Option Bool
  /-- Memory (R32). -/
  mem : Memory
  /-- How the run ended, if it has (R20). -/
  outcome : Option Terminal
  /-- The parameters of R10, constant during a run (R145). -/
  cfg : Config
  /-- The writes made so far, oldest first (R59). -/
  events : List WriteEvent
  /-- THE MODEL'S OWN: the free values the next execution may use (R12). -/
  draw : Draw
  /-- THE MODEL'S OWN: the number of the draw after that (R145). -/
  drawIndex : Nat
  deriving DecidableEq, Repr

/-- The outcome of a step or of an instruction. -/
abbrev StepOutcome := Host.Outcome State Fault Refusal

/-- The configuration of `State.reset`: R10's defaults; where R10 gives none, DESIGN CHOICES (logs 3, 6, 7), with no
program loaded. -/
def launchConfig : Config where
  haveMte := false
  bigEndian := false
  constrainDataOverlap := .none
  constrainBaseOverlap := .none
  constrainLdpOverlap := .nop
  abortWhenMonitorFails := .either
  spAlignCheck := true
  unmarkedStoreMaySucceed := true
  sboPolicy := .refuse
  accessibleRegions := [{ base := 0, len := 2 ^ 64, word := true, doubleword := true }]
  prog := []
  base := 0x10000

/-- One launch state (R140: "The model has no reset"). `pc` is `base` and no outcome is recorded, as R34 says; every value
R34 leaves to the launch is a DESIGN CHOICE (logs 2 to 9). -/
def State.reset : State where
  x := Vector.replicate 31 0
  sp := 0
  pc := launchConfig.base
  dit := false
  mon := .opened
  tagChecked := none
  mem := []
  outcome := none
  cfg := launchConfig
  events := []
  draw := Draw.fresh 0
  drawIndex := 1

end Sys2Proof.Machine
end

