-- ==== Sys2Proof/Machine/Flags.lean ====
section
/-! DEFINITION. Flags. STLXR reads no condition flag and writes none, and the model has none (R26); its result is the status
in `<Ws>`. The one field of the processor state is `PSTATE.DIT` (R27), which speaks of time only (R146). -/

namespace Sys2Proof.Machine

/-- R146: whether the timing of the instruction is promised not to depend on the data. No rule of the model reads it. -/
def timingInsensitive (s : State) : Bool :=
  s.dit

/-- The status of the store-exclusive as the bit the Operation computes (R50, R102): 0 if memory was updated. -/
def statusBit (updated : Bool) : BitVec 1 :=
  if updated then 0#1 else 1#1

/-- `ZeroExtend(status, 32)` (R102). -/
def statusWord (updated : Bool) : Word :=
  (statusBit updated).setWidth 32

end Sys2Proof.Machine
end

