-- ==== Sys2Proof/Machine/Ops.lean ====
section
/-! DEFINITION. The named operations over registers, memory, the monitors and the program counter, and taking an
exception. -/

namespace Sys2Proof.Machine

/-! ## Registers -/

/-- `x[i]` (R12, R22): number 31 reads as 0. -/
def State.readX (s : State) (i : RegNum) : DWord :=
  if h : i.toNat < 31 then s.x[i.toNat] else 0

/-- `w[i]`: the low 32 bits of `x[i]` (R12, R21). -/
def State.readW (s : State) (i : RegNum) : Word :=
  (s.readX i).setWidth 32

/-- `x[i] <- v` (R12, R22): discarded when `i` is 31. -/
def State.writeX (s : State) (i : RegNum) (v : DWord) : State :=
  { s with x := if h : i.toNat < 31 then s.x.set i.toNat v else s.x }

/-- `w[i] <- v`: the 64-bit register receives `v` zero-extended (R12, R23, D6). -/
def State.writeW (s : State) (i : RegNum) (v : Word) : State :=
  s.writeX i (v.setWidth 64)

/-! ## Memory -/

/-- What a byte of memory that is not listed reads as. DESIGN CHOICE, unsafe (log 5): the spec leaves the initial contents
to the launch (R32). -/
def Memory.unlisted : Byte := 0

/-- The byte at an address. -/
def Memory.read : Memory → Nat → Byte
  | [], _ => Memory.unlisted
  | (b, v) :: rest, a => if b = a then v else Memory.read rest a

/-- The cells at other addresses than `a`. -/
def Memory.erase (m : Memory) (a : Nat) : Memory :=
  m.filter fun c => c.1 != a

/-- A cell put before the first one at a higher address. -/
def Memory.insert : Memory → Nat → Byte → Memory
  | [], a, v => [(a, v)]
  | (b, u) :: rest, a, v => if a < b then (a, v) :: (b, u) :: rest else (b, u) :: Memory.insert rest a v

/-- The byte `v` written at the address `a`, keeping the canonical form: what was listed at `a` goes, and the byte is listed
unless an unlisted address reads as it. -/
def Memory.write (m : Memory) (a : Nat) (v : Byte) : Memory :=
  if v = Memory.unlisted then Memory.erase m a else Memory.insert (Memory.erase m a) a v

/-- Bytes written one after another from the address `a` upward. -/
def Memory.writeBytes : Memory → Nat → List Byte → Memory
  | m, _, [] => m
  | m, a, v :: rest => Memory.writeBytes (Memory.write m a v) (a + 1) rest

/-- The canonical form of the cells from the address `lo` upward: strictly rising, below 2 to the 64, none unlisted. -/
def Memory.wfFrom : Nat → Memory → Bool
  | _, [] => true
  | lo, (a, v) :: rest => decide (lo ≤ a) && decide (a < 2 ^ 64) && (v != Memory.unlisted) && Memory.wfFrom (a + 1) rest

/-- The canonical form of memory: equal memories are equal lists. -/
def Memory.wf (m : Memory) : Bool :=
  Memory.wfFrom 0 m

/-- Byte `i` of a value, byte 0 the least significant (R43). -/
def byteOf (v : DWord) (i : Nat) : Byte :=
  v.extractLsb' (8 * i) 8

/-- The `n` bytes of a value as they lie in memory, lowest address first (R43). -/
def bytesInMemory (bigEndian : Bool) (n : Nat) (v : DWord) : List Byte :=
  (List.range n).map fun i => byteOf v (if bigEndian then n - 1 - i else i)

/-- `MemWrite(addr, n, v)` (R43). The byte addresses are on unbounded integers (log 17): an aligned access does not wrap
(R63). -/
def memWrite (bigEndian : Bool) (m : Memory) (a : DWord) (n : Nat) (v : DWord) : Memory :=
  Memory.writeBytes m a.toNat (bytesInMemory bigEndian n v)

/-- The bytes of memory from the address `a` upward. -/
def Memory.readBytes (m : Memory) (a : Nat) (n : Nat) : List Byte :=
  (List.range n).map fun i => Memory.read m (a + i)

/-- A region admits a write of this size and holds all its bytes (R47, D9; logs 7 and 17: the sums are on unbounded
integers). -/
def regionAdmits (r : Region) (a : DWord) (sz : AccessSize) : Bool :=
  (match sz with
    | .word => r.word
    | .doubleword => r.doubleword)
  && decide (r.base.toNat ≤ a.toNat) && decide (a.toNat + sz.dbytes ≤ r.base.toNat + r.len)

/-- `Accessible(a, n)` (R47, D9): some region of the configuration admits the write. -/
def accessible (c : Config) (a : DWord) (sz : AccessSize) : Bool :=
  c.accessibleRegions.any fun r => regionAdmits r a sz

/-- The `dbytes`-byte range at `a` meets the program text, on unbounded integers (R61). -/
def meetsProgramText (c : Config) (a : DWord) (sz : AccessSize) : Bool :=
  !c.prog.isEmpty && decide (a.toNat < c.base.toNat + 4 * c.prog.length) && decide (c.base.toNat < a.toNat + sz.dbytes)

/-! ## The Exclusives monitors -/

/-- `mon` includes `[a, a+n-1]` (R29). DESIGN CHOICE, unsafe at the top of the address space (log 17): R29 does not say
whether its sums are on unbounded integers or modulo 2 to the 64 (R11), and the model takes them unbounded. -/
def Monitor.includes (m : Monitor) (a : DWord) (n : Nat) : Bool :=
  match m with
  | .opened => false
  | .exclusive base len => decide (base.toNat ≤ a.toNat) && decide (a.toNat + n ≤ base.toNat + len)

/-- `mon <- Open` (R30, R54). -/
def State.openMonitor (s : State) : State :=
  { s with mon := .opened }

/-! ## The effects of an instruction -/

/-- The write of a successful STLXR with its event (R40, R43, R59): ordered atomic, since `o0` is 1 in every word. -/
def State.storeValue (s : State) (a : DWord) (sz : AccessSize) (v : DWord) : State :=
  { s with
    mem := memWrite s.cfg.bigEndian s.mem a sz.dbytes v
    events := s.events ++ [{ address := a, size := sz, data := v, acctype := acctypeOf 1#1 }] }

/-- `if HaveMTEExt() then SetTagCheckedInstruction(tag_checked)` with `tag_checked = n != 31` (R31, R95). -/
def State.markTagChecked (s : State) (rn : RegNum) : State :=
  { s with tagChecked := if s.cfg.haveMte then some (rn != 31#5) else s.tagChecked }

/-- The instruction completes: `pc <- pc + 4` modulo 2 to the 64 (R25, R104), and the next one draws afresh (R145). -/
def State.retire (s : State) : State :=
  { s with pc := s.pc + 4, draw := Draw.fresh s.drawIndex, drawIndex := s.drawIndex + 1 }

/-- Taking an exception: `raise E(info)` ends the run with the terminal outcome `Fault(E, info, pc)` and changes no
register, no memory byte, not `mon` and not `pc` (R12, R103, R129, D21). The spec has no handler, no saved state and no
return (R8, R130). -/
def raise (e : DWord → Fault) (s : State) : StepOutcome :=
  .fault (e s.pc)

/-- `outcome` records how the run ended (R20, R141); a recorded outcome is never cleared (R129). -/
def State.record (s : State) (t : Terminal) : State :=
  { s with outcome := s.outcome <|> some t }

end Sys2Proof.Machine
end

