-- ==== Sys2Proof/Machine/Operands.lean ====
section
/-! DEFINITION. The operands of STLXR: the two overlap checks (R96, R97), the base address (R98) and the data (R99). -/

namespace Sys2Proof.Machine

/-- What an overlap check does with the instruction (R96, R97). -/
inductive CheckResult where
  /-- The instruction goes on; `unknown` is the value of `rt_unknown` or `rn_unknown`. -/
  | proceed (unknown : Bool)
  /-- `UNDEFINED`. -/
  | undefined
  /-- `EndOfInstruction()`. -/
  | endOfInstruction
  deriving DecidableEq, Repr

/-- What the two overlap checks together do with the instruction (R94, R97). -/
inductive OverlapResult where
  | proceed (rtUnknown rnUnknown : Bool)
  | undefined
  | endOfInstruction
  deriving DecidableEq, Repr

/-- One overlap check: the `case c of` of R96 and R97 when the overlap holds, and nothing otherwise. -/
def overlapCheck (holds : Bool) (c : Constraint) : CheckResult :=
  if holds then
    match c with
    | .unknown => .proceed true
    | .none => .proceed false
    | .undef => .undefined
    | .nop => .endOfInstruction
  else .proceed false

/-- The condition of R96 with `pair` FALSE: `s == t`, number 31 included. -/
def dataOverlap (rs rt : RegNum) : Bool :=
  rs == rt

/-- The condition of R97: `s == n && n != 31`. -/
def baseOverlap (rs rn : RegNum) : Bool :=
  rs == rn && rn != 31#5

/-- Step 1 of R90: the data overlap check, then the base overlap check if the first did not end the instruction. -/
def overlapChecks (c : Config) (rs rn rt : RegNum) : OverlapResult :=
  match overlapCheck (dataOverlap rs rt) c.constrainDataOverlap with
  | .undefined => .undefined
  | .endOfInstruction => .endOfInstruction
  | .proceed rtUnknown =>
    match overlapCheck (baseOverlap rs rn) c.constrainBaseOverlap with
    | .undefined => .undefined
    | .endOfInstruction => .endOfInstruction
    | .proceed rnUnknown => .proceed rtUnknown rnUnknown

/-- `CheckSPAlignment()` passes (R46). -/
def spAligned (s : State) : Bool :=
  !s.cfg.spAlignCheck || s.sp.toNat % 16 == 0

/-- Step 2 of R90 (R98): the stack pointer after its check, an UNKNOWN address, or the base register unmodified. -/
def baseAddress (s : State) (rn : RegNum) (rnUnknown : Bool) : Except (DWord → Fault) DWord :=
  if rn = 31#5 then
    if spAligned s then .ok s.sp else .error Fault.spAlignment
  else if rnUnknown then .ok s.draw.address
  else .ok (s.readX rn)

/-- A value of the data size, in 64 bits: the 32-bit variant transfers the low 32 bits (R41). -/
def truncateTo (sz : AccessSize) (v : DWord) : DWord :=
  match sz with
  | .word => (v.setWidth 32).setWidth 64
  | .doubleword => v

/-- Step 3 of R90 and R91 (R99): an UNKNOWN value, or the value of register `t` at the data size, before any write. -/
def storeData (s : State) (sz : AccessSize) (rt : RegNum) (rtUnknown : Bool) : DWord :=
  truncateTo sz (if rtUnknown then s.draw.data else s.readX rt)

end Sys2Proof.Machine
end

