-- ==== Sys2Proof/Machine/StoreExclusive.lean ====
section
/-! DEFINITION. The family of STLXR: the outcome relation of R52, the steps of R90 and R91, and one meaning per variant. -/

namespace Sys2Proof.Machine

/-- The outcomes of the access step (R52). -/
inductive AccessOutcome where
  | success
  | fail
  | abort (kind : AbortKind)
  deriving DecidableEq, Repr

/-- `aligned = (a mod n == 0)` (R52). -/
def aligned (a : DWord) (sz : AccessSize) : Bool :=
  a.toNat % sz.dbytes == 0

/-- `would_abort = (not aligned) or (not Accessible(a, n))` (R52). -/
def wouldAbort (c : Config) (a : DWord) (sz : AccessSize) : Bool :=
  !aligned a sz || !accessible c a sz

/-- `abort_kind = Alignment if not aligned else Other` (R52). -/
def abortKind (a : DWord) (sz : AccessSize) : AbortKind :=
  if aligned a sz then .other else .alignment

/-- `may_pass = included or (mon != Open and UNMARKED_STORE_MAY_SUCCEED)` (R52, R53). -/
def mayPass (c : Config) (mon : Monitor) (a : DWord) (sz : AccessSize) : Bool :=
  Monitor.includes mon a sz.dbytes || (mon != .opened && c.unmarkedStoreMaySucceed)

/-- R52's table: which outcomes are admitted. -/
def admitted (c : Config) (mon : Monitor) (a : DWord) (sz : AccessSize) : AccessOutcome → Bool
  | .success => mayPass c mon a sz && !wouldAbort c a sz
  | .fail => !wouldAbort c a sz || c.abortWhenMonitorFails != .always
  | .abort kind =>
    kind == abortKind a sz && wouldAbort c a sz && (mayPass c mon a sz || c.abortWhenMonitorFails != .never)

/-- The outcome other than Fail that R52 may admit: an abort on an address that would abort, success on any other. -/
def otherOutcome (c : Config) (a : DWord) (sz : AccessSize) : AccessOutcome :=
  if wouldAbort c a sz then .abort (abortKind a sz) else .success

/-- The admitted outcome the access takes: where R52 admits two, the free value `storeFails` says which (log 9). -/
def accessOutcome (s : State) (a : DWord) (sz : AccessSize) : AccessOutcome :=
  if admitted s.cfg s.mon a sz .fail && (!admitted s.cfg s.mon a sz (otherOutcome s.cfg a sz) || s.draw.storeFails) then
    .fail
  else otherOutcome s.cfg a sz

/-- The deterministic reading R52 gives for tests of a simulator. -/
def simulatorOutcome (c : Config) (mon : Monitor) (a : DWord) (sz : AccessSize) : AccessOutcome :=
  if Monitor.includes mon a sz.dbytes then otherOutcome c a sz
  else if wouldAbort c a sz && c.abortWhenMonitorFails == .always then .abort (abortKind a sz)
  else .fail

/-- Steps 5 and 6 of R90: `x[s] <- zext_64(status)`, discarded when `s` is 31, then `pc <- pc + 4` (R102, R104). -/
def State.completeWithStatus (s : State) (rs : RegNum) (updated : Bool) : State :=
  State.retire (State.writeW s rs (statusWord updated))

/-- The state after a STLXR that stored (R110, row "stored"). -/
def State.stored (s : State) (sz : AccessSize) (rs : RegNum) (a data : DWord) : State :=
  State.completeWithStatus (State.openMonitor (State.storeValue s a sz data)) rs true

/-- The state after a STLXR that did not store (R110, row "not stored"). -/
def State.notStored (s : State) (rs : RegNum) : State :=
  State.completeWithStatus (State.openMonitor s) rs false

/-- Steps 4 to 6 of R90 and R91: the test against the program text (R61), then the outcome of the access (R100, R101). -/
def accessAndStatus (s : State) (sz : AccessSize) (rs : RegNum) (a data : DWord) : StepOutcome :=
  if meetsProgramText s.cfg a sz then .refused .storeIntoProgramText
  else
    match accessOutcome s a sz with
    | .success => .next (State.stored s sz rs a data)
    | .fail => .next (State.notStored s rs)
    | .abort kind => raise (Fault.dataAbort kind a) s

/-- The Operation of R90 and R91 at a data size, its steps in the order of R94. HAVE_MTE is refused first (R110, D17). -/
def storeReleaseExclusive (s : State) (sz : AccessSize) (rs rn rt : RegNum) : StepOutcome :=
  if s.cfg.haveMte then .refused .taggingConfigured
  else
    match overlapChecks s.cfg rs rn rt with
    | .undefined => raise Fault.undefined s
    | .endOfInstruction => .next (State.retire s)
    | .proceed rtUnknown rnUnknown =>
      match baseAddress s rn rnUnknown with
      | .error e => raise e s
      | .ok a => accessAndStatus (State.markTagChecked s rn) sz rs a (storeData s sz rt rtUnknown)

/-- The Operation in the order of the other edition, E-2020-06 (R94, R108, R109): the tag-checked mark comes before the
overlap checks. No arm of exec runs it: the normative edition is the one above (R5, D1). -/
def storeReleaseExclusiveE202006 (s : State) (sz : AccessSize) (rs rn rt : RegNum) : StepOutcome :=
  if s.cfg.haveMte then .refused .taggingConfigured
  else
    let marked := State.markTagChecked s rn
    match overlapChecks marked.cfg rs rn rt with
    | .undefined => raise Fault.undefined marked
    | .endOfInstruction => .next (State.retire marked)
    | .proceed rtUnknown rnUnknown =>
      match baseAddress marked rn rnUnknown with
      | .error e => raise e marked
      | .ok a => accessAndStatus marked sz rs a (storeData marked sz rt rtUnknown)

/-- `STLXR <Ws>, <Wt>, [<Xn|SP>{,#0}]` (R90). -/
def execStlxr32 (rs rn rt : RegNum) (s : State) : StepOutcome :=
  storeReleaseExclusive s .word rs rn rt

/-- `STLXR <Ws>, <Xt>, [<Xn|SP>{,#0}]` (R91). -/
def execStlxr64 (rs rn rt : RegNum) (s : State) : StepOutcome :=
  storeReleaseExclusive s .doubleword rs rn rt

end Sys2Proof.Machine
end

