-- ==== Sys2Proof/Machine/Dispatch.lean ====
section
/-! DEFINITION. One arm per constructor of Instr, each one direct call of its meaning. -/

namespace Sys2Proof.Machine

def exec (i : Instr) (s : State) : Host.Outcome State Fault Refusal :=
  match i with
  | .stlxr32 rs rn rt => Sys2Proof.Machine.execStlxr32 rs rn rt s
  | .stlxr64 rs rn rt => Sys2Proof.Machine.execStlxr64 rs rn rt s

end Sys2Proof.Machine
end

