-- ==== Sys2Proof/Machine/Fetch.lean ====
section
/-! DEFINITION. What the run loop of R141 does before an instruction's meaning: the tests on the state, the fetch from the
program text, the decoder, and the treatment of a should-be-one violation (R76). -/

namespace Sys2Proof.Machine

/-- What the run loop does next. -/
inductive Action where
  | execute (i : Instr)
  /-- The word completes with `pc <- pc + 4` only (SBO_POLICY `nop`). -/
  | completeOnly
  | fault (f : Fault)
  | refuse (r : Refusal)
  deriving DecidableEq, Repr

/-- The address after the last word of the program text (R141), on unbounded integers (log 17): R141 keeps it below 2 to
the 64. -/
def textEnd (c : Config) : Nat :=
  c.base.toNat + 4 * c.prog.length

/-- A recorded outcome admits no step (R141): the machine stays at it. -/
def terminalAction : Terminal → Action
  | .faulted f => .fault f
  | .refused r => .refuse r

/-- The treatment of a word whose bits 14:10 are not `11111`, under each `SBO_POLICY` (R76, D19). -/
def sboAction (policy : SboPolicy) (i : Instr) (pc : DWord) : Action :=
  match policy with
  | .refuse => .refuse .sboViolation
  | .undef => .fault (.undefined pc)
  | .nop => .completeOnly
  | .ignore => .execute i

/-- The `case decode(W) of` of R141. -/
def wordAction (policy : SboPolicy) (w : Word) (pc : DWord) : Action :=
  match decode w with
  | .instr i => .execute i
  | .sboViolation i => sboAction policy i pc
  | .notInScope => .refuse .notInScope

/-- `prog[(pc - base) / 4]` (R61, R141, D3). -/
def fetchWord (s : State) : Option Word :=
  s.cfg.prog[(s.pc.toNat - s.cfg.base.toNat) / 4]?

/-- The run loop of R141 up to the instruction's meaning, its tests in its order. -/
def nextAction (s : State) : Action :=
  if s.cfg.haveMte then .refuse .taggingConfigured
  else
    match s.outcome with
    | some t => terminalAction t
    | none =>
      if s.pc.toNat = textEnd s.cfg then .refuse .runOver
      else if s.pc.toNat % 4 ≠ 0 then .fault (.pcAlignment s.pc)
      else if s.pc.toNat < s.cfg.base.toNat || textEnd s.cfg < s.pc.toNat then .refuse .fetchOutsideProgram
      else
        match fetchWord s with
        | some w => wordAction s.cfg.sboPolicy w s.pc
        | none => .refuse .fetchOutsideProgram

/-- Whether the fetch at `pc` reads a word of the program text. -/
def fetchesText (s : State) : Bool :=
  s.pc.toNat % 4 == 0 && decide (s.cfg.base.toNat ≤ s.pc.toNat) && decide (s.pc.toNat < textEnd s.cfg)

/-- The word put where the next fetch reads: in place in the program text, or as a program of its own at `pc` (rounded down
to a word) when `pc` fetches no word of the text. -/
def placeWord (s : State) (w : Word) : State :=
  if fetchesText s then
    { s with cfg := { s.cfg with prog := s.cfg.prog.set ((s.pc.toNat - s.cfg.base.toNat) / 4) w } }
  else
    { s with pc := s.pc &&& ~~~3#64, cfg := { s.cfg with prog := [w], base := s.pc &&& ~~~3#64 } }

/-- A machine that may step: not tagging, and with no outcome recorded. -/
def State.readyToStep (s : State) : State :=
  { s with outcome := none, cfg := { s.cfg with haveMte := false } }

end Sys2Proof.Machine
end

