-- ==== Sys2Proof/Machine/Step.lean ====
section
/-! DEFINITION. One step of the run loop (R141), the terminal state a stopped run records (R20, R141), and where the host
places a word to be fetched. -/

namespace Sys2Proof.Machine

/-- One step (R141). -/
def step (s : State) : Host.Outcome State Fault Refusal :=
  match nextAction s with
  | .execute i => exec i s
  | .completeOnly => .next (State.retire s)
  | .fault f => .fault f
  | .refuse r => .refused r

/-- The run loop on states alone, as R141 has it: a step that stops records its outcome in the state and changes nothing
else, and a run that is over takes no step. -/
def runLoop (s : State) : State :=
  match step s with
  | .next t => t
  | .fault f => State.record s (.faulted f)
  | .refused .runOver => s
  | .refused r => State.record s (.refused r)

/-- `s` with the word `w` where `step` fetches its next instruction, so that the next step runs it (log 3: it stands for the
launch's load of a program). -/
def State.withFetchWord (s : State) (nbits w : Nat) : State :=
  placeWord (State.readyToStep s) (BitVec.ofNat 32 (w % 2 ^ nbits))

end Sys2Proof.Machine
end

