-- ==== Sys2Proof/Machine/Assembler.lean ====
section
/-! DEFINITION. Assembler lines and disassembly (R79, R81, R82, R83): the two syntax lines of STLXR as data, the instruction
a line assembles to, the line an instruction disassembles to, and a line's text. -/

namespace Sys2Proof.Machine

/-- The width a register's name carries (R21, R82). -/
inductive NameWidth where
  | w
  | x
  deriving DecidableEq, Repr

/-- The name of a general-purpose register: `W0`..`W30` and `WZR`, or `X0`..`X30` and `XZR` for number 31 (R82). -/
structure RegName where
  width : NameWidth
  number : RegNum
  deriving DecidableEq, Repr

/-- A name in the base position: `X<i>`, or `SP` (R82). -/
inductive BaseName where
  | x (number : RegNum)
  | sp
  deriving DecidableEq, Repr

/-- A line `STLXR <status>, <data>, [<base>{, #<offset>}]` (R81). -/
structure AsmLine where
  status : RegName
  data : RegName
  base : BaseName
  /-- The optional offset, as written. -/
  offset : Option Nat
  deriving DecidableEq, Repr

/-- The number of a base name; `XZR` cannot be written there (R82). -/
def baseNumber : BaseName → Option RegNum
  | .x i => if i = 31#5 then none else some i
  | .sp => some 31#5

/-- The name of a base number: 31 is written `SP` (R82). -/
def baseNameOf (i : RegNum) : BaseName :=
  if i = 31#5 then .sp else .x i

/-- Whether an offset may be written: none, or `#0`; "no other offset can be written" (R79). -/
def offsetAllowed : Option Nat → Bool
  | none => true
  | some k => k == 0

/-- The instruction a line assembles to (R81): the status register has a `W` name, the data register's name picks the
variant, the offset is not encoded. -/
def assemble (l : AsmLine) : Option Instr :=
  if l.status.width = .w ∧ offsetAllowed l.offset then
    (baseNumber l.base).map fun rn =>
      match l.data.width with
      | .w => .stlxr32 l.status.number rn l.data.number
      | .x => .stlxr64 l.status.number rn l.data.number
  else none

/-- The width of the data register's name, per variant (R81). -/
def dataWidth : AccessSize → NameWidth
  | .word => .w
  | .doubleword => .x

/-- The line an instruction disassembles to: the syntax line of its variant without the optional `#0` (R83). -/
def disassemble (i : Instr) : AsmLine where
  status := { width := .w, number := i.rs }
  data := { width := dataWidth i.size, number := i.rt }
  base := baseNameOf i.rn
  offset := none

/-- A register's name as text (R82). -/
def RegName.text (r : RegName) : String :=
  (match r.width with
    | .w => "W"
    | .x => "X")
  ++ (if r.number = 31#5 then "ZR" else toString r.number.toNat)

/-- A base's name as text (R82). -/
def BaseName.text : BaseName → String
  | .x i => RegName.text { width := .x, number := i }
  | .sp => "SP"

/-- A line's text (R81). -/
def AsmLine.text (l : AsmLine) : String :=
  "STLXR " ++ RegName.text l.status ++ ", " ++ RegName.text l.data ++ ", [" ++ BaseName.text l.base
  ++ (match l.offset with
    | none => ""
    | some k => ", #" ++ toString k)
  ++ "]"

end Sys2Proof.Machine
end

