-- ==== Sys2Proof/Safety.lean ====
section
/-! DEFINITION. The terms claims are stated in: final and terminal states (R142), the invariant of a run, and what R110 says
a step of STLXR leaves behind. -/

namespace Sys2Proof.Machine

/-! ## Runs -/

/-- `k` steps of the run loop (R141), stopping at the first fault or refusal. -/
def runSteps : Nat → State → StepOutcome
  | 0, s => .next s
  | k + 1, s =>
    match step s with
    | .next t => runSteps k t
    | .fault f => .fault f
    | .refused r => .refused r

/-- A run is over (R142): `pc == base + 4 * len(prog)` and no fault and no refusal is recorded. -/
def State.final (s : State) : Bool :=
  decide (s.pc.toNat = textEnd s.cfg) && s.outcome.isNone

/-- A recorded fault or refusal: terminal, and never final (R142). -/
def State.terminal (s : State) : Bool :=
  s.outcome.isSome

/-- The invariant of a run: memory in canonical form, a well-formed text (R141), `pc` on a word boundary inside the text or
at its end (R25, R141), and no tag-checked mark without `HAVE_MTE` (R20, R31). -/
def State.inv (s : State) : Bool :=
  Memory.wf s.mem && s.cfg.wellFormed && (s.pc.toNat % 4 == 0)
  && decide (s.cfg.base.toNat ≤ s.pc.toNat) && decide (s.pc.toNat ≤ textEnd s.cfg)
  && (s.cfg.haveMte || s.tagChecked.isNone)

/-- The program counter a fault names (R129). -/
def Fault.pc : Fault → DWord
  | .undefined pc => pc
  | .spAlignment pc => pc
  | .dataAbort _ _ pc => pc
  | .pcAlignment pc => pc

/-- An outcome with a change made to its next state, if it has one. -/
def mapNext (f : State → State) : StepOutcome → StepOutcome
  | .next t => .next (f t)
  | .fault r => .fault r
  | .refused r => .refused r

/-! ## One STLXR, in the words of R96 to R99 and R110 -/

/-- The two overlap checks let the instruction go on: no overlap, or a constraint `UNKNOWN` or `NONE` (R96, R97). -/
def goesOn (i : Instr) (s : State) : Bool :=
  (!i.dataOverlaps || s.cfg.constrainDataOverlap == .unknown || s.cfg.constrainDataOverlap == .none)
  && (!i.baseOverlaps || s.cfg.constrainBaseOverlap == .unknown || s.cfg.constrainBaseOverlap == .none)

/-- The address the instruction uses (R97, R98): the stack pointer; a free value where the base overlap is `UNKNOWN`; the
base register. -/
def effectiveAddress (i : Instr) (s : State) : DWord :=
  if i.rn = 31#5 then s.sp
  else if i.baseOverlaps && s.cfg.constrainBaseOverlap == .unknown then s.draw.address
  else s.readX i.rn

/-- The data the instruction would store (R96, R99): a free value where the data overlap is `UNKNOWN`, else the value of the
data register, at the data size. -/
def effectiveData (i : Instr) (s : State) : DWord :=
  truncateTo i.size (if i.dataOverlaps && s.cfg.constrainDataOverlap == .unknown then s.draw.data else s.readX i.rt)

/-- The stack pointer passes its check, or is not the base (R46). -/
def spCheckPasses (i : Instr) (s : State) : Bool :=
  i.rn != 31#5 || !s.cfg.spAlignCheck || s.sp.toNat % 16 == 0

/-- The instruction reaches its access: tagging is not configured, the overlap checks let it go on, the stack pointer
passes its check, and the range does not meet the program text (R61). -/
def reachesAccess (i : Instr) (s : State) : Bool :=
  !s.cfg.haveMte && goesOn i s && spCheckPasses i s && !meetsProgramText s.cfg (effectiveAddress i s) i.size

/-- The access, if made, generates no synchronous Data Abort (R44, R47). -/
def accessAllowed (i : Instr) (s : State) : Bool :=
  (effectiveAddress i s).toNat % i.size.dbytes == 0 && accessible s.cfg (effectiveAddress i s) i.size

/-- What every completed STLXR leaves as it was, and the advance of `pc` (R104, R105): every register but `x[s]`, the stack
pointer, `PSTATE.DIT`, the mark, the record of how a run ended, and the configuration. -/
structure Completes (i : Instr) (s t : State) : Prop where
  pc : t.pc = s.pc + 4
  registers : ∀ r, r ≠ i.rs → t.readX r = s.readX r
  sp : t.sp = s.sp
  dit : t.dit = s.dit
  tagChecked : t.tagChecked = s.tagChecked
  outcome : t.outcome = s.outcome
  cfg : t.cfg = s.cfg

/-- R110's row "stored": the bytes at the address are the data in the byte order of R43, every other byte is unchanged,
`x[s]` is 0 (number 31 reads as 0), `mon` is Open, and the write is one event with release ordering (R59, R112). -/
structure Stored (i : Instr) (a data : DWord) (s t : State) : Prop extends Completes i s t where
  bytes : ∀ k, k < i.size.dbytes → Memory.read t.mem (a.toNat + k)
    = byteOf data (if s.cfg.bigEndian then i.size.dbytes - 1 - k else k)
  elsewhere : ∀ b, b < a.toNat ∨ a.toNat + i.size.dbytes ≤ b → Memory.read t.mem b = Memory.read s.mem b
  status : t.readX i.rs = 0
  mon : t.mon = .opened
  events : t.events = s.events ++ [{ address := a, size := i.size, data := data, acctype := .orderedAtomic }]

/-- R110's row "not stored": memory unchanged, `x[s]` is 1 unless `s` is 31, `mon` is Open, and no event. -/
structure NotStored (i : Instr) (s t : State) : Prop extends Completes i s t where
  mem : t.mem = s.mem
  status : t.readX i.rs = if i.rs = 31#5 then 0 else 1
  mon : t.mon = .opened
  events : t.events = s.events

/-- R110's row "NOP by constraint": nothing but `pc`. -/
structure NopByConstraint (i : Instr) (s t : State) : Prop extends Completes i s t where
  mem : t.mem = s.mem
  status : t.readX i.rs = s.readX i.rs
  mon : t.mon = s.mon
  events : t.events = s.events

/-- A completed STLXR that reached its access: it stored, or it did not (R110). -/
def StoredOrNot (i : Instr) (s t : State) : Prop :=
  (mayPass s.cfg s.mon (effectiveAddress i s) i.size = true ∧ Stored i (effectiveAddress i s) (effectiveData i s) s t)
  ∨ NotStored i s t

end Sys2Proof.Machine
end

