-- ==== Sys2Proof/Certificates/Slice0/Obligations.lean ====
section
/-! DEFINITION. The statements for the provers, from the numbered rules of spec/. Where a state is named it is any state; a
free value (`draw`) is never fixed by a hypothesis, so a statement holds for every value of it. -/

open Sys2Proof Sys2Proof.Machine

/-! ## Encoding -/

/-- R71, R74, R77: decoding the word of any instruction gives that instruction, for every operand. -/
def Obligations.DecodeOfEncodeIsTheInstruction : Prop :=
  ∀ i : Instr, decode (encode i) = .instr i

/-- R71, R74, R77: a word that decodes to an instruction is the word of that instruction. -/
def Obligations.EncodeOfDecodeIsTheWord : Prop :=
  ∀ (w : Word) (i : Instr), decode w = .instr i → encode i = w

/-- R71, R74, R75: the words of the two variants, field by field of the diagram. -/
def Obligations.DecodesIffFieldsMatchTheDiagram : Prop :=
  ∀ w : Word,
    ((∃ i, decode w = .instr i) ↔
      w.getLsbD 31 = true ∧ w.extractLsb' 21 9 = 0b001000000#9 ∧ w.getLsbD 15 = true ∧ w.extractLsb' 10 5 = 0b11111#5)
    ∧ ∀ i, decode w = .instr i →
      i.size = (if w.getLsbD 30 then .doubleword else .word)
      ∧ i.rs = w.extractLsb' 16 5 ∧ i.rn = w.extractLsb' 5 5 ∧ i.rt = w.extractLsb' 0 5

/-- R76, R77: the should-be-one violations, and the instruction the policy `ignore` executes for them. -/
def Obligations.SboViolationIffShouldBeOneBitsBroken : Prop :=
  ∀ w : Word,
    ((∃ i, decode w = .sboViolation i) ↔
      w.getLsbD 31 = true ∧ w.extractLsb' 21 9 = 0b001000000#9 ∧ w.getLsbD 15 = true ∧ w.extractLsb' 10 5 ≠ 0b11111#5)
    ∧ ∀ i, decode w = .sboViolation i →
      i.size = (if w.getLsbD 30 then .doubleword else .word)
      ∧ i.rs = w.extractLsb' 16 5 ∧ i.rn = w.extractLsb' 5 5 ∧ i.rt = w.extractLsb' 0 5

/-- Words of 95_test_vectors.md (V1, V4, V5, V7, V10, V14, V21, V25, V32). -/
def Obligations.WordsOfTheVectorsDecode : Prop :=
  decode 0x8802FC01#32 = .instr (.stlxr32 2 0 1)
  ∧ decode 0xC803FCA4#32 = .instr (.stlxr64 3 5 4)
  ∧ decode 0xC809FFEA#32 = .instr (.stlxr64 9 31 10)
  ∧ decode 0xC81FFC89#32 = .instr (.stlxr64 31 4 9)
  ∧ decode 0x8805FFE6#32 = .instr (.stlxr32 5 31 6)
  ∧ decode 0xC81FFFFF#32 = .instr (.stlxr64 31 31 31)
  ∧ decode 0x88028001#32 = .sboViolation (.stlxr32 2 0 1)
  ∧ decode 0x88027C01#32 = .notInScope
  ∧ decode 0x88408000#32 = .notInScope

/-- R79, R81, R82, R83: disassembling and assembling again gives the instruction, the optional `#0` changes nothing, and no
other offset can be written. -/
def Obligations.AssembleOfDisassembleIsTheInstruction : Prop :=
  ∀ i : Instr,
    assemble (disassemble i) = some i
    ∧ assemble { disassemble i with offset := some 0 } = some i
    ∧ ∀ k, k ≠ 0 → assemble { disassemble i with offset := some k } = none

/-- R93: the table of the decode constants, for every word of the two variants. -/
def Obligations.DecodeConstantsOfEveryWord : Prop :=
  ∀ i : Instr,
    (decodeConstants (encode i)).acctype = .orderedAtomic
    ∧ (decodeConstants (encode i)).pair = false
    ∧ (decodeConstants (encode i)).memop = .store
    ∧ (decodeConstants (encode i)).elsize = (match i with
      | .stlxr32 _ _ _ => 32
      | .stlxr64 _ _ _ => 64)
    ∧ (decodeConstants (encode i)).regsize = (match i with
      | .stlxr32 _ _ _ => 32
      | .stlxr64 _ _ _ => 64)
    ∧ (decodeConstants (encode i)).datasize = (match i with
      | .stlxr32 _ _ _ => 32
      | .stlxr64 _ _ _ => 64)
    ∧ i.size.dbytes = (match i with
      | .stlxr32 _ _ _ => 4
      | .stlxr64 _ _ _ => 8)
    ∧ (decodeConstants (encode i)).tagChecked = (i.rn != 31#5)
    ∧ (decodeConstants (encode i)).n = i.rn.toNat ∧ (decodeConstants (encode i)).t = i.rt.toNat
    ∧ (decodeConstants (encode i)).s = i.rs.toNat

/-! ## The run loop -/

/-- R141: where a run may step and the word at `pc` decodes to an instruction, the step is that instruction's execution and
nothing around it. Where the text passes the top of the address space, which R141 shuts out, its end is the model's choice
(log 17). -/
def Obligations.StepRunsTheDecodedInstruction : Prop :=
  ∀ (s : State) (w : Word) (i : Instr),
    s.cfg.haveMte = false → s.outcome = none → s.pc.toNat % 4 = 0
    → s.cfg.base.toNat ≤ s.pc.toNat → s.pc.toNat < s.cfg.base.toNat + 4 * s.cfg.prog.length
    → s.cfg.prog[(s.pc.toNat - s.cfg.base.toNat) / 4]? = some w → decode w = .instr i
    → step s = exec i s

/-- R76, D19: a word whose should-be-one bits are broken, under each policy. Where the text passes the top of the address
space, which R141 shuts out, its end is the model's choice (log 17). -/
def Obligations.StepOnShouldBeOneViolation : Prop :=
  ∀ (s : State) (w : Word) (i : Instr),
    s.cfg.haveMte = false → s.outcome = none → s.pc.toNat % 4 = 0
    → s.cfg.base.toNat ≤ s.pc.toNat → s.pc.toNat < s.cfg.base.toNat + 4 * s.cfg.prog.length
    → s.cfg.prog[(s.pc.toNat - s.cfg.base.toNat) / 4]? = some w → decode w = .sboViolation i
    → (s.cfg.sboPolicy = .refuse → step s = .refused .sboViolation)
      ∧ (s.cfg.sboPolicy = .undef → step s = .fault (.undefined s.pc))
      ∧ (s.cfg.sboPolicy = .nop → ∃ t, step s = .next t ∧ t.pc = s.pc + 4 ∧ t.x = s.x ∧ t.sp = s.sp
          ∧ t.dit = s.dit ∧ t.mem = s.mem ∧ t.mon = s.mon ∧ t.tagChecked = s.tagChecked ∧ t.outcome = s.outcome ∧ t.cfg = s.cfg
          ∧ t.events = s.events)
      ∧ (s.cfg.sboPolicy = .ignore → step s = exec i s)

/-- R141: the tests before the fetch, and the word out of scope, each where the tests before it let the run go on.
R141 says "no step" of a recorded outcome and of the end of the program; that step answers a recorded fault or refusal again
is the model's choice (log 11, DESIGN CHOICE), and so are its answer runOver at the end of the program (log 10, DESIGN
CHOICE) and the end of a text that passes the top of the address space, which R141 shuts out (log 17, DESIGN CHOICE). -/
def Obligations.StepStopsWhereTheRunLoopSays : Prop :=
  ∀ s : State,
    (s.cfg.haveMte = true → step s = .refused .taggingConfigured)
    ∧ (s.cfg.haveMte = false → ∀ f, s.outcome = some (.faulted f) → step s = .fault f)
    ∧ (s.cfg.haveMte = false → ∀ r, s.outcome = some (.refused r) → step s = .refused r)
    ∧ (s.cfg.haveMte = false → s.outcome = none →
        (s.pc.toNat = textEnd s.cfg → step s = .refused .runOver)
        ∧ (s.pc.toNat ≠ textEnd s.cfg → s.pc.toNat % 4 ≠ 0 → step s = .fault (.pcAlignment s.pc))
        ∧ (s.pc.toNat % 4 = 0 →
            (s.pc.toNat < s.cfg.base.toNat ∧ s.pc.toNat ≠ textEnd s.cfg ∨ textEnd s.cfg < s.pc.toNat) → step s = .refused .fetchOutsideProgram)
        ∧ (s.pc.toNat % 4 = 0 → s.cfg.base.toNat ≤ s.pc.toNat → s.pc.toNat < textEnd s.cfg →
            ∀ w, s.cfg.prog[(s.pc.toNat - s.cfg.base.toNat) / 4]? = some w → decode w = .notInScope →
              step s = .refused .notInScope))

/-- R129, R141, R142: a recorded fault or refusal is never cleared and admits no further change. That the run loop records
it is the model's choice (log 11). -/
def Obligations.RecordedOutcomeIsTerminal : Prop :=
  ∀ (s : State) (k : Nat), s.terminal = true → runLoop^[k] s = s ∧ s.final = false

/-- R103, R128, R129: a fault names the pc of the instruction that raised it, and the run loop records it and changes
nothing else. -/
def Obligations.FaultsArePrecise : Prop :=
  ∀ (s : State) (f : Fault), s.outcome = none → step s = .fault f →
    f.pc = s.pc ∧ runLoop s = { s with outcome := some (.faulted f) }

/-- R141, R142, R20: what the run loop makes of each answer of a step: the next state; a refusal recorded as
`Refused(reason)` with nothing else changed, and the state then terminal; and at the end of the program no change, in a state
that is final. That the run loop records the outcome (log 11) and that the end of the program is answered by runOver, which is
never recorded (log 10), are the model's choices (DESIGN CHOICE). -/
def Obligations.RunLoopRecordsHowARunEnds : Prop :=
  ∀ s : State,
    (∀ t, step s = .next t → runLoop s = t)
    ∧ (s.outcome = none → ∀ r, r ≠ .runOver → step s = .refused r →
        runLoop s = { s with outcome := some (.refused r) } ∧ (runLoop s).terminal = true)
    ∧ (s.outcome = none → step s = .refused .runOver → runLoop s = s ∧ s.final = true)

/-- R145 ("each execution draws afresh"): a step that gives a next state leaves the draw of its counter and advances the
counter by one, so that after `k` steps of a run the counter is `k` further on and no draw of the run is used twice. That the
draws stand in State and come from opaque constants at a counter is the model's choice (log 9, DESIGN CHOICE). -/
def Obligations.EveryStepDrawsAfresh : Prop :=
  (∀ s t : State, step s = .next t → t.draw = Draw.fresh s.drawIndex ∧ t.drawIndex = s.drawIndex + 1)
  ∧ ∀ (k : Nat) (s t : State), runSteps k s = .next t →
      t.drawIndex = s.drawIndex + k ∧ (0 < k → t.draw = Draw.fresh (s.drawIndex + k - 1))

/-- R145, R140: no step of a run changes the configuration or the program text. -/
def Obligations.ConfigurationIsConstantInARun : Prop :=
  ∀ (k : Nat) (s t : State), runSteps k s = .next t → t.cfg = s.cfg

/-- R141: "a run of a program of `k` words takes at most `k` steps", and `pc` moves forward by 4 at each. -/
def Obligations.RunTakesAtMostOneStepPerWord : Prop :=
  ∀ (k : Nat) (s t : State), s.inv = true → s.pc = s.cfg.base → runSteps k s = .next t →
    k ≤ s.cfg.prog.length ∧ t.pc.toNat = s.cfg.base.toNat + 4 * k

/-- R141, R25, R31, R32: every step keeps the invariant of a run, from every state that has it. -/
def Obligations.StepKeepsTheRunInvariant : Prop :=
  ∀ s t : State, s.inv = true → step s = .next t → t.inv = true

/-- The launch state the model names has the invariant, is a final state with no program loaded, and has `pc` at `base` with
no outcome recorded (R34, R140, R142). The other values of the launch state are the model's choices (logs 2 to 9). -/
def Obligations.ResetHasTheRunInvariant : Prop :=
  State.reset.inv = true ∧ State.reset.pc = State.reset.cfg.base ∧ State.reset.outcome = none
  ∧ State.reset.final = true

/-! ## The outcomes of one STLXR -/

/-- R90, R110: the 32-bit variant completes wherever it reaches an access that may be made; it stores or it does not, for
every free value. -/
def Obligations.Stlxr32Completes : Prop :=
  ∀ (rs rn rt : RegNum) (s : State),
    reachesAccess (.stlxr32 rs rn rt) s = true → accessAllowed (.stlxr32 rs rn rt) s = true →
    ∃ t, exec (.stlxr32 rs rn rt) s = .next t ∧ StoredOrNot (.stlxr32 rs rn rt) s t

/-- R91, R110: the 64-bit variant completes wherever it reaches an access that may be made. -/
def Obligations.Stlxr64Completes : Prop :=
  ∀ (rs rn rt : RegNum) (s : State),
    reachesAccess (.stlxr64 rs rn rt) s = true → accessAllowed (.stlxr64 rs rn rt) s = true →
    ∃ t, exec (.stlxr64 rs rn rt) s = .next t ∧ StoredOrNot (.stlxr64 rs rn rt) s t

/-- R52: the access takes exactly the admitted outcomes, each under some free value, and at least one is admitted. The form of the
free value is the model's choice (log 9). -/
def Obligations.AccessTakesExactlyTheAdmittedOutcomes : Prop :=
  ∀ (s : State) (a : DWord) (sz : AccessSize),
    (∀ o, admitted s.cfg s.mon a sz o = true ↔ ∃ d, accessOutcome { s with draw := d } a sz = o)
    ∧ ∃ o, admitted s.cfg s.mon a sz o = true

/-- R52's reading for a deterministic simulator, and that it is one of the admitted outcomes. -/
def Obligations.SimulatorReadingIsAdmitted : Prop :=
  ∀ (c : Config) (mon : Monitor) (a : DWord) (sz : AccessSize),
    admitted c mon a sz (simulatorOutcome c mon a sz) = true
    ∧ (Monitor.includes mon a sz.dbytes = true → wouldAbort c a sz = false → simulatorOutcome c mon a sz = .success)
    ∧ (Monitor.includes mon a sz.dbytes = true → wouldAbort c a sz = true →
        simulatorOutcome c mon a sz = .abort (abortKind a sz))
    ∧ (Monitor.includes mon a sz.dbytes = false →
        (wouldAbort c a sz = true ∧ c.abortWhenMonitorFails = .always →
          simulatorOutcome c mon a sz = .abort (abortKind a sz))
        ∧ (¬(wouldAbort c a sz = true ∧ c.abortWhenMonitorFails = .always) → simulatorOutcome c mon a sz = .fail))

/-- R52, R53 at the level of the instruction, in every form that goes on, the overlaps under NONE and UNKNOWN among them
(R96, R97; `reachesAccess` holds `goesOn`): where the access may be made and the monitor may pass, the store is reached under
some draw, and where the access may be made the failure is. The draw found keeps the UNKNOWN address and the UNKNOWN data of
`s`, so every UNKNOWN data is stored under some draw, and so it is at every UNKNOWN address that may be accessed. The form of
the free value is the model's choice (log 9). -/
def Obligations.StoreAndFailureAreBothReached : Prop :=
  ∀ (i : Instr) (s : State),
    reachesAccess i s = true → accessAllowed i s = true →
    (mayPass s.cfg s.mon (effectiveAddress i s) i.size = true →
      ∃ d t, d.address = s.draw.address ∧ d.data = s.draw.data ∧ exec i { s with draw := d } = .next t
        ∧ Stored i (effectiveAddress i { s with draw := d }) (effectiveData i { s with draw := d }) { s with draw := d } t)
    ∧ ∃ d t, d.address = s.draw.address ∧ d.data = s.draw.data ∧ exec i { s with draw := d } = .next t
        ∧ NotStored i { s with draw := d } t

/-- R53: the monitor set to another range admits success exactly under UNMARKED_STORE_MAY_SUCCEED; the open monitor admits
only a failure or an abort, under either value. -/
def Obligations.UnmarkedStoreRules : Prop :=
  ∀ (c : Config) (mon : Monitor) (a : DWord) (sz : AccessSize),
    (mon ≠ .opened → Monitor.includes mon a sz.dbytes = false → wouldAbort c a sz = false →
      admitted c mon a sz .fail = true ∧ admitted c mon a sz .success = c.unmarkedStoreMaySucceed)
    ∧ (mon = .opened → admitted c mon a sz .success = false)

/-- R29, R52, R53: where UNMARKED_STORE_MAY_SUCCEED is FALSE, the fields of `Exclusive(base, len)` decide: success is
admitted exactly when the access lies in the marked range, and so is the abort under `never` at an address that would abort;
the deterministic reading succeeds exactly there, whatever the parameter is; and an instruction that may make its access, in
every form that goes on, stores under some draw exactly there. That the sums of R29 are on unbounded integers is the model's
choice (log 17, DESIGN CHOICE); it matters only at the top of the address space. -/
def Obligations.MarkedRangeDecidesTheStore : Prop :=
  (∀ (c : Config) (base : DWord) (len : Nat) (a : DWord) (sz : AccessSize),
    (c.unmarkedStoreMaySucceed = false → wouldAbort c a sz = false →
      (admitted c (.exclusive base len) a sz .success = true
        ↔ base.toNat ≤ a.toNat ∧ a.toNat + sz.dbytes ≤ base.toNat + len))
    ∧ (c.unmarkedStoreMaySucceed = false → wouldAbort c a sz = true → c.abortWhenMonitorFails = .never →
      (admitted c (.exclusive base len) a sz (.abort (abortKind a sz)) = true
        ↔ base.toNat ≤ a.toNat ∧ a.toNat + sz.dbytes ≤ base.toNat + len))
    ∧ (wouldAbort c a sz = false →
      (simulatorOutcome c (.exclusive base len) a sz = .success
        ↔ base.toNat ≤ a.toNat ∧ a.toNat + sz.dbytes ≤ base.toNat + len)))
  ∧ ∀ (i : Instr) (s : State) (base : DWord) (len : Nat),
    s.mon = .exclusive base len → s.cfg.unmarkedStoreMaySucceed = false →
    reachesAccess i s = true → accessAllowed i s = true →
    ((∃ d t, d.address = s.draw.address ∧ d.data = s.draw.data ∧ exec i { s with draw := d } = .next t
        ∧ Stored i (effectiveAddress i { s with draw := d }) (effectiveData i { s with draw := d }) { s with draw := d } t)
      ↔ base.toNat ≤ (effectiveAddress i s).toNat
        ∧ (effectiveAddress i s).toNat + i.size.dbytes ≤ base.toNat + len)

/-- R53, R54: with the monitor open no form of the instruction stores. -/
def Obligations.OpenMonitorNeverStores : Prop :=
  ∀ (i : Instr) (s t : State), s.mon = .opened → exec i s = .next t → t.mem = s.mem ∧ t.events = s.events

/-- R54: a completion with a status leaves the monitor open, and of two STLXR in a row the second never stores. -/
def Obligations.StatusLeavesMonitorOpen : Prop :=
  ∀ (i j : Instr) (s t : State),
    exec i s = .next t → goesOn i s = true →
    t.mon = .opened ∧ ∀ u, exec j t = .next u → u.mem = t.mem ∧ u.events = t.events

/-- R50: memory changes only with status 0, and status 1 means no write. -/
def Obligations.StatusSaysWhetherMemoryChanged : Prop :=
  ∀ (i : Instr) (s t : State),
    exec i s = .next t → goesOn i s = true → i.rs ≠ 31#5 →
    (t.readX i.rs = 0 ∧ Stored i (effectiveAddress i s) (effectiveData i s) s t)
    ∨ (t.readX i.rs = 1 ∧ NotStored i s t)

/-- R96: the data overlap under each constraint. -/
def Obligations.DataOverlapUnderEachConstraint : Prop :=
  ∀ (i : Instr) (s : State), s.cfg.haveMte = false → i.rs = i.rt →
    (s.cfg.constrainDataOverlap = .undef → exec i s = .fault (.undefined s.pc))
    ∧ (s.cfg.constrainDataOverlap = .nop → ∃ t, exec i s = .next t ∧ NopByConstraint i s t)
    ∧ (s.cfg.constrainDataOverlap = .unknown → reachesAccess i s = true → accessAllowed i s = true →
        ∃ t, exec i s = .next t ∧
          (Stored i (effectiveAddress i s) (truncateTo i.size s.draw.data) s t ∨ NotStored i s t))
    ∧ (s.cfg.constrainDataOverlap = .none → reachesAccess i s = true → accessAllowed i s = true →
        ∃ t, exec i s = .next t ∧
          (Stored i (effectiveAddress i s) (truncateTo i.size (s.readX i.rt)) s t ∨ NotStored i s t))

/-- R97: the base overlap under each constraint, where the data overlap check has not ended the instruction. -/
def Obligations.BaseOverlapUnderEachConstraint : Prop :=
  ∀ (i : Instr) (s : State), s.cfg.haveMte = false → i.rs = i.rn → i.rn ≠ 31#5 →
    (i.rs ≠ i.rt ∨ s.cfg.constrainDataOverlap = .unknown ∨ s.cfg.constrainDataOverlap = .none) →
    (s.cfg.constrainBaseOverlap = .undef → exec i s = .fault (.undefined s.pc))
    ∧ (s.cfg.constrainBaseOverlap = .nop → ∃ t, exec i s = .next t ∧ NopByConstraint i s t)
    ∧ (s.cfg.constrainBaseOverlap = .unknown → meetsProgramText s.cfg s.draw.address i.size = false →
        (∃ t, exec i s = .next t ∧ (Stored i s.draw.address (effectiveData i s) s t ∨ NotStored i s t))
        ∨ ∃ kind, exec i s = .fault (.dataAbort kind s.draw.address s.pc))
    ∧ (s.cfg.constrainBaseOverlap = .none → meetsProgramText s.cfg (s.readX i.rn) i.size = false →
        (∃ t, exec i s = .next t ∧ (Stored i (s.readX i.rn) (effectiveData i s) s t ∨ NotStored i s t))
        ∨ ∃ kind, exec i s = .fault (.dataAbort kind (s.readX i.rn) s.pc))

/-- R97: `Rs` = `Rn` = 31 is no overlap: where the data check lets the instruction go on and the stack pointer passes its
check, the access is at the stack pointer, whatever CONSTRAIN_BASEOVERLAP is. -/
def Obligations.StackPointerBaseIsNoOverlap : Prop :=
  ∀ (i : Instr) (s : State), s.cfg.haveMte = false → i.rs = 31#5 → i.rn = 31#5 →
    (i.rt ≠ 31#5 ∨ s.cfg.constrainDataOverlap = .unknown ∨ s.cfg.constrainDataOverlap = .none) →
    s.sp.toNat % 16 = 0 → meetsProgramText s.cfg s.sp i.size = false → accessible s.cfg s.sp i.size = true →
    ∃ t, exec i s = .next t ∧ (Stored i s.sp (effectiveData i s) s t ∨ NotStored i s t)

/-- R46: the check of the stack pointer: where it faults, that it comes before anything else of the access, and where it
does not apply. -/
def Obligations.StackPointerAlignmentCheck : Prop :=
  ∀ (i : Instr) (s : State),
    (s.cfg.haveMte = false → goesOn i s = true → i.rn = 31#5 → s.cfg.spAlignCheck = true → s.sp.toNat % 16 ≠ 0 →
      exec i s = .fault (.spAlignment s.pc))
    ∧ ((i.rn ≠ 31#5 ∨ s.cfg.spAlignCheck = false) → ∀ pc, exec i s ≠ .fault (.spAlignment pc))
    ∧ (s.sp.toNat % 16 = 0 → aligned s.sp .word = true ∧ aligned s.sp .doubleword = true)

/-- R44, R45, R47: a misaligned or inaccessible address is never stored to: the abort, of kind Alignment where the address is
misaligned, or the failure, as ABORT_WHEN_MONITOR_FAILS says. -/
def Obligations.AbortingAddressIsNeverStoredTo : Prop :=
  ∀ (i : Instr) (s : State), reachesAccess i s = true → accessAllowed i s = false →
    (exec i s = .fault (.dataAbort
        (if (effectiveAddress i s).toNat % i.size.dbytes = 0 then .other else .alignment) (effectiveAddress i s) s.pc)
      ∨ ∃ t, exec i s = .next t ∧ NotStored i s t)
    ∧ (s.cfg.abortWhenMonitorFails = .always → exec i s = .fault (.dataAbort
        (if (effectiveAddress i s).toNat % i.size.dbytes = 0 then .other else .alignment) (effectiveAddress i s) s.pc))
    ∧ (s.cfg.abortWhenMonitorFails = .never → mayPass s.cfg s.mon (effectiveAddress i s) i.size = false →
        ∃ t, exec i s = .next t ∧ NotStored i s t)

/-- R61: a store that meets the program text is refused, whatever the monitor outcome would be. -/
def Obligations.StoreIntoProgramTextIsRefused : Prop :=
  ∀ (i : Instr) (s : State), s.cfg.haveMte = false → goesOn i s = true → spCheckPasses i s = true →
    s.cfg.prog ≠ [] →
    (∃ b, (effectiveAddress i s).toNat ≤ b ∧ b < (effectiveAddress i s).toNat + i.size.dbytes
      ∧ s.cfg.base.toNat ≤ b ∧ b < s.cfg.base.toNat + 4 * s.cfg.prog.length) →
    exec i s = .refused .storeIntoProgramText

/-- R126: the priority among the exceptions of one STLXR; a NOP outcome of either check hides everything below it. -/
def Obligations.ExceptionPriority : Prop :=
  ∀ (i : Instr) (s : State), s.cfg.haveMte = false →
    (i.dataOverlaps = true → s.cfg.constrainDataOverlap = .undef → exec i s = .fault (.undefined s.pc))
    ∧ (¬(i.dataOverlaps = true ∧ (s.cfg.constrainDataOverlap = .undef ∨ s.cfg.constrainDataOverlap = .nop)) →
        i.baseOverlaps = true → s.cfg.constrainBaseOverlap = .undef → exec i s = .fault (.undefined s.pc))
    ∧ (i.dataOverlaps = true → s.cfg.constrainDataOverlap = .nop → ∃ t, exec i s = .next t ∧ NopByConstraint i s t)
    ∧ (¬(i.dataOverlaps = true ∧ (s.cfg.constrainDataOverlap = .undef ∨ s.cfg.constrainDataOverlap = .nop)) →
        i.baseOverlaps = true → s.cfg.constrainBaseOverlap = .nop → ∃ t, exec i s = .next t ∧ NopByConstraint i s t)
    ∧ (goesOn i s = true → spCheckPasses i s = false → exec i s = .fault (.spAlignment s.pc))
    ∧ (∀ kind a pc, exec i s = .fault (.dataAbort kind a pc) → goesOn i s = true ∧ spCheckPasses i s = true
        ∧ (kind = .alignment ↔ a.toNat % i.size.dbytes ≠ 0))

/-- R110: a step of STLXR ends in exactly one of the rows of the table. -/
def Obligations.EveryExecutionIsARowOfTheTable : Prop :=
  ∀ (i : Instr) (s : State),
    (∃ t, exec i s = .next t ∧ reachesAccess i s = true ∧ accessAllowed i s = true
      ∧ mayPass s.cfg s.mon (effectiveAddress i s) i.size = true
      ∧ Stored i (effectiveAddress i s) (effectiveData i s) s t)
    ∨ (∃ t, exec i s = .next t ∧ reachesAccess i s = true ∧ NotStored i s t)
    ∨ (∃ t, exec i s = .next t ∧ NopByConstraint i s t
      ∧ (i.rs = i.rt ∧ s.cfg.constrainDataOverlap = .nop
        ∨ i.rs = i.rn ∧ i.rn ≠ 31#5 ∧ s.cfg.constrainBaseOverlap = .nop))
    ∨ (exec i s = .fault (.undefined s.pc)
      ∧ (i.rs = i.rt ∧ s.cfg.constrainDataOverlap = .undef
        ∨ i.rs = i.rn ∧ i.rn ≠ 31#5 ∧ s.cfg.constrainBaseOverlap = .undef))
    ∨ (exec i s = .fault (.spAlignment s.pc) ∧ i.rn = 31#5 ∧ s.cfg.spAlignCheck = true ∧ s.sp.toNat % 16 ≠ 0)
    ∨ (exec i s = .fault (.dataAbort .alignment (effectiveAddress i s) s.pc)
      ∧ (effectiveAddress i s).toNat % i.size.dbytes ≠ 0
      ∧ (mayPass s.cfg s.mon (effectiveAddress i s) i.size = true ∨ s.cfg.abortWhenMonitorFails ≠ .never))
    ∨ (exec i s = .fault (.dataAbort .other (effectiveAddress i s) s.pc)
      ∧ (effectiveAddress i s).toNat % i.size.dbytes = 0 ∧ accessible s.cfg (effectiveAddress i s) i.size = false
      ∧ (mayPass s.cfg s.mon (effectiveAddress i s) i.size = true ∨ s.cfg.abortWhenMonitorFails ≠ .never))
    ∨ (exec i s = .refused .taggingConfigured ∧ s.cfg.haveMte = true)
    ∨ (exec i s = .refused .storeIntoProgramText ∧ meetsProgramText s.cfg (effectiveAddress i s) i.size = true)

/-- R109: the two editions of the page give STLXR the same behaviour. -/
def Obligations.BothEditionsBehaveTheSame : Prop :=
  ∀ (i : Instr) (s : State), storeReleaseExclusiveE202006 s i.size i.rs i.rn i.rt = exec i s

/-! ## Frames -/

/-- R105: of both variants, in every form, an execution that gives a next state leaves every register but `x[s]`, the stack
pointer, `PSTATE.DIT`, the mark, the recorded outcome and the configuration as they were, and advances `pc`. -/
def Obligations.FrameOfRegistersAndSpecialState : Prop :=
  ∀ (i : Instr) (s t : State), exec i s = .next t →
    (∀ r, r ≠ i.rs → t.readX r = s.readX r) ∧ t.sp = s.sp ∧ t.dit = s.dit
    ∧ (s.cfg.haveMte = false → t.tagChecked = s.tagChecked) ∧ t.outcome = s.outcome ∧ t.cfg = s.cfg ∧ t.pc = s.pc + 4

/-- R40, R105: of both variants, in every form, every byte of memory outside the stored bytes is unchanged, and a form that
ends in its overlap checks stores nothing. -/
def Obligations.FrameOfMemory : Prop :=
  ∀ (i : Instr) (s t : State), exec i s = .next t →
    (∀ rtUnknown rnUnknown a, overlapChecks s.cfg i.rs i.rn i.rt = .proceed rtUnknown rnUnknown →
      baseAddress s i.rn rnUnknown = .ok a →
      ∀ b, b < a.toNat ∨ a.toNat + i.size.dbytes ≤ b → Memory.read t.mem b = Memory.read s.mem b)
    ∧ (overlapChecks s.cfg i.rs i.rn i.rt = .endOfInstruction → ∀ b, Memory.read t.mem b = Memory.read s.mem b)

/-- R59, R112, R40: an execution makes at most one data write, an aligned write of the variant's size with release ordering;
one that makes none leaves memory as it was. The events are the model's record of R59 (log 8). -/
def Obligations.StoresAreSingleReleaseWrites : Prop :=
  ∀ (i : Instr) (s t : State), exec i s = .next t →
    (t.events = s.events ∧ t.mem = s.mem)
    ∨ ∃ e, t.events = s.events ++ [e] ∧ e.acctype = .orderedAtomic ∧ e.size = i.size
        ∧ e.address.toNat % i.size.dbytes = 0

/-- R27, R146: no step reads `PSTATE.DIT`: with the bit changed, the step is the same but for the bit. -/
def Obligations.DitDoesNotChangeAnyOutcome : Prop :=
  ∀ (s : State) (d : Bool), step { s with dit := d } = mapNext (fun t => { t with dit := d }) (step s)

/-- R41: the 32-bit variant does not store bits 63:32 of the data register: two runs that differ only there leave the same
memory, the same monitor and the same status. -/
def Obligations.NarrowStoreIgnoresTheUpperHalf : Prop :=
  ∀ (rs rn rt : RegNum) (s t : State) (v : DWord),
    (rn ≠ rt ∨ rt = 31#5) → v.setWidth 32 = (s.readX rt).setWidth 32 →
    exec (.stlxr32 rs rn rt) s = .next t → goesOn (.stlxr32 rs rn rt) s = true →
    ∃ u, exec (.stlxr32 rs rn rt) (s.writeX rt v) = .next u ∧ u.mem = t.mem ∧ u.mon = t.mon ∧ u.events = t.events
      ∧ u.readX rs = t.readX rs

/-! ## Registers and memory -/

/-- R22, R23: number 31 reads as 0 and a write to it changes nothing; any other register reads back what was written, a
32-bit write clears bits 63:32, and no other register changes. -/
def Obligations.RegisterWriteRules : Prop :=
  ∀ (s : State) (i : RegNum) (v : DWord) (w : Word),
    s.readX 31#5 = 0 ∧ s.writeX 31#5 v = s
    ∧ (i ≠ 31#5 → (s.writeX i v).readX i = v ∧ (s.writeW i w).readX i = w.setWidth 64)
    ∧ ∀ r, r ≠ i → (s.writeX i v).readX r = s.readX r

/-- R43: after a write of `n` bytes each of them reads as the byte of the value the byte order puts there, and every other
address reads as before. Where the range passes the top of the address space, that its byte addresses do not wrap is the
model's choice (log 17, DESIGN CHOICE: R11 has address arithmetic modulo 2 to the 64); the access of an instruction is aligned
and never does (R63). -/
def Obligations.MemWriteByteOrder : Prop :=
  ∀ (bigEndian : Bool) (m : Memory) (a : DWord) (n : Nat) (v : DWord),
    (∀ k, k < n → Memory.read (memWrite bigEndian m a n v) (a.toNat + k)
      = v.extractLsb' (8 * (if bigEndian then n - 1 - k else k)) 8)
    ∧ ∀ b, b < a.toNat ∨ a.toNat + n ≤ b → Memory.read (memWrite bigEndian m a n v) b = Memory.read m b

/-- R63: an aligned access never wraps the top of the address space. -/
def Obligations.AlignedAccessNeverWraps : Prop :=
  ∀ (a : DWord) (sz : AccessSize), aligned a sz = true → a.toNat + sz.dbytes ≤ 2 ^ 64
end

