-- ==== Sys2Proof/Laws/Decode.lean ====
section
/-! SUPPORT. The masks of R74 and R77 as fields of the word, and the fields of an encoded word. -/

namespace Sys2Proof

/-- A word under a mask, bit by bit. -/
theorem mask_eq_iff (w m v : Word) : w &&& m = v ↔ ∀ k, k < 32 → (w.getLsbD k && m.getLsbD k) = v.getLsbD k := by
  constructor
  · rintro rfl k hk; simp
  · intro h
    apply BitVec.eq_of_getLsbD_eq
    intro k hk
    simpa using h k hk

/-- R74's mask and match of the 32-bit variant, as fields. -/
theorem and_mask_eq_match32_iff (w : Word) : (w &&& 0xFFE0FC00#32 = 0x8800FC00#32) ↔
      w.extractLsb' 21 11 = 0b10001000000#11 ∧ w.extractLsb' 10 6 = 0b111111#6 := by
  constructor
  · intro h
    have := (mask_eq_iff _ _ _).mp h
    constructor <;>
    · apply BitVec.eq_of_getLsbD_eq
      intro k hk
      have h2 := this (k+10)
      have h1 := this (k+21)
      interval_cases k <;> simp_all
  · rintro ⟨h1, h2⟩
    rw [mask_eq_iff]
    intro k hk
    have a1 : ∀ j, j < 11 → w.getLsbD (21 + j) = (0b10001000000#11).getLsbD j := by
      intro j hj; rw [← h1]; simp [hj]
    have a2 : ∀ j, j < 6 → w.getLsbD (10 + j) = (0b111111#6).getLsbD j := by
      intro j hj; rw [← h2]; simp [hj]
    by_cases c1 : 21 ≤ k
    · have := a1 (k - 21) (by omega)
      rw [show 21 + (k - 21) = k by omega] at this
      rw [this]
      interval_cases k <;> decide
    · by_cases c2 : 10 ≤ k ∧ k < 16
      · have := a2 (k - 10) (by omega)
        rw [show 10 + (k - 10) = k by omega] at this
        rw [this]
        obtain ⟨_, _⟩ := c2
        interval_cases k <;> decide
      · have : (0xFFE0FC00#32).getLsbD k = false ∧ (0x8800FC00#32).getLsbD k = false := by
          have : k < 10 ∨ 16 ≤ k ∧ k < 21 := by omega
          revert this c1 c2
          interval_cases k <;> decide
        simp [this]

/-- R74's mask and match of the 64-bit variant, as fields. -/
theorem and_mask_eq_match64_iff (w : Word) : (w &&& 0xFFE0FC00#32 = 0xC800FC00#32) ↔
      w.extractLsb' 21 11 = 0b11001000000#11 ∧ w.extractLsb' 10 6 = 0b111111#6 := by
  constructor
  · intro h
    have := (mask_eq_iff _ _ _).mp h
    constructor <;>
    · apply BitVec.eq_of_getLsbD_eq
      intro k hk
      have h2 := this (k+10)
      have h1 := this (k+21)
      interval_cases k <;> simp_all
  · rintro ⟨h1, h2⟩
    rw [mask_eq_iff]
    intro k hk
    have a1 : ∀ j, j < 11 → w.getLsbD (21 + j) = (0b11001000000#11).getLsbD j := by
      intro j hj; rw [← h1]; simp [hj]
    have a2 : ∀ j, j < 6 → w.getLsbD (10 + j) = (0b111111#6).getLsbD j := by
      intro j hj; rw [← h2]; simp [hj]
    by_cases c1 : 21 ≤ k
    · have := a1 (k - 21) (by omega)
      rw [show 21 + (k - 21) = k by omega] at this
      rw [this]
      interval_cases k <;> decide
    · by_cases c2 : 10 ≤ k ∧ k < 16
      · have := a2 (k - 10) (by omega)
        rw [show 10 + (k - 10) = k by omega] at this
        rw [this]
        obtain ⟨_, _⟩ := c2
        interval_cases k <;> decide
      · have : (0xFFE0FC00#32).getLsbD k = false ∧ (0xC800FC00#32).getLsbD k = false := by
          have : k < 10 ∨ 16 ≤ k ∧ k < 21 := by omega
          revert this c1 c2
          interval_cases k <;> decide
        simp [this]

/-- The third test of R77, as fields. -/
theorem and_mask_eq_sbo_iff (w : Word) : (w &&& 0xBFE08000#32 = 0x88008000#32) ↔
      w.getLsbD 31 = true ∧ w.extractLsb' 21 9 = 0b001000000#9 ∧ w.getLsbD 15 = true := by
  constructor
  · intro h
    have := (mask_eq_iff _ _ _).mp h
    refine ⟨by simpa using this 31, ?_, by simpa using this 15⟩
    apply BitVec.eq_of_getLsbD_eq
    intro k hk
    have h1 := this (k+21)
    interval_cases k <;> simp_all
  · rintro ⟨h1, h2, h3⟩
    rw [mask_eq_iff]
    intro k hk
    have a1 : ∀ j, j < 9 → w.getLsbD (21 + j) = (0b001000000#9).getLsbD j := by
      intro j hj; rw [← h2]; simp [hj]
    by_cases c0 : k = 31
    · subst c0; simp [h1]
    by_cases c1 : 21 ≤ k ∧ k < 30
    · have := a1 (k - 21) (by omega)
      rw [show 21 + (k - 21) = k by omega] at this
      rw [this]
      obtain ⟨_, _⟩ := c1
      interval_cases k <;> decide
    · by_cases c2 : k = 15
      · subst c2; simp [h3]
      · have : (0xBFE08000#32).getLsbD k = false ∧ (0x88008000#32).getLsbD k = false := by
          revert c0 c1 c2
          interval_cases k <;> decide
        simp [this]

section
variable (i : Instr)

theorem encode_bits_31_21 : (encode i).extractLsb' 21 11 = i.size.field ++ 0b001000000#9 := by
  apply BitVec.eq_of_getLsbD_eq
  intro k hk
  simp only [encode, BitVec.getLsbD_append, BitVec.getLsbD_extractLsb']
  interval_cases k <;> simp

theorem encode_bits_15_10 : (encode i).extractLsb' 10 6 = 0b111111#6 := by
  apply BitVec.eq_of_getLsbD_eq
  intro k hk
  simp only [encode, BitVec.getLsbD_append, BitVec.getLsbD_extractLsb']
  interval_cases k <;> simp

theorem fieldRs_encode : fieldRs (encode i) = i.rs := by
  apply BitVec.eq_of_getLsbD_eq
  intro k hk
  simp only [fieldRs, encode, BitVec.getLsbD_append, BitVec.getLsbD_extractLsb']
  interval_cases k <;> simp

theorem fieldRn_encode : fieldRn (encode i) = i.rn := by
  apply BitVec.eq_of_getLsbD_eq
  intro k hk
  simp only [fieldRn, encode, BitVec.getLsbD_append, BitVec.getLsbD_extractLsb']
  interval_cases k <;> simp

theorem fieldRt_encode : fieldRt (encode i) = i.rt := by
  apply BitVec.eq_of_getLsbD_eq
  intro k hk
  simp only [fieldRt, encode, BitVec.getLsbD_append, BitVec.getLsbD_extractLsb']
  interval_cases k <;> simp

theorem fieldSize_encode : fieldSize (encode i) = i.size.field := by
  apply BitVec.eq_of_getLsbD_eq
  intro k hk
  simp only [fieldSize, encode, BitVec.getLsbD_append, BitVec.getLsbD_extractLsb']
  interval_cases k <;> simp

theorem fieldL_encode : fieldL (encode i) = 0#1 := by
  apply BitVec.eq_of_getLsbD_eq
  intro k hk
  simp only [fieldL, encode, BitVec.getLsbD_append, BitVec.getLsbD_extractLsb']
  interval_cases k; simp

theorem fieldO0_encode : fieldO0 (encode i) = 1#1 := by
  apply BitVec.eq_of_getLsbD_eq
  intro k hk
  simp only [fieldO0, encode, BitVec.getLsbD_append, BitVec.getLsbD_extractLsb']
  interval_cases k; simp

end

theorem stlxr32_high_bits (a b c) : (Instr.stlxr32 a b c).size.field ++ 0b001000000#9 = 0b10001000000#11 := by
  show (0b10#2 ++ 0b001000000#9 = 0b10001000000#11); decide

theorem stlxr64_high_bits (a b c) : (Instr.stlxr64 a b c).size.field ++ 0b001000000#9 = 0b11001000000#11 := by
  show (0b11#2 ++ 0b001000000#9 = 0b11001000000#11); decide

end Sys2Proof
end

