-- ==== Sys2Proof/Laws/State.lean ====
section
/-! SUPPORT. One lemma per field per update of State, so that no proof unfolds a record update. -/

namespace Sys2Proof.Machine

variable (s : State)

/-! ### writeX -/

@[simp] theorem State.writeX_x (i : RegNum) (v : DWord) : (State.writeX s i v).x
    = (if h : i.toNat < 31 then s.x.set i.toNat v else s.x) := rfl
@[simp] theorem State.writeX_sp (i : RegNum) (v : DWord) : (State.writeX s i v).sp = s.sp := rfl
@[simp] theorem State.writeX_pc (i : RegNum) (v : DWord) : (State.writeX s i v).pc = s.pc := rfl
@[simp] theorem State.writeX_dit (i : RegNum) (v : DWord) : (State.writeX s i v).dit = s.dit := rfl
@[simp] theorem State.writeX_mon (i : RegNum) (v : DWord) : (State.writeX s i v).mon = s.mon := rfl
@[simp] theorem State.writeX_tagChecked (i : RegNum) (v : DWord) : (State.writeX s i v).tagChecked = s.tagChecked := rfl
@[simp] theorem State.writeX_mem (i : RegNum) (v : DWord) : (State.writeX s i v).mem = s.mem := rfl
@[simp] theorem State.writeX_outcome (i : RegNum) (v : DWord) : (State.writeX s i v).outcome = s.outcome := rfl
@[simp] theorem State.writeX_cfg (i : RegNum) (v : DWord) : (State.writeX s i v).cfg = s.cfg := rfl
@[simp] theorem State.writeX_events (i : RegNum) (v : DWord) : (State.writeX s i v).events = s.events := rfl
@[simp] theorem State.writeX_draw (i : RegNum) (v : DWord) : (State.writeX s i v).draw = s.draw := rfl
@[simp] theorem State.writeX_drawIndex (i : RegNum) (v : DWord) : (State.writeX s i v).drawIndex = s.drawIndex := rfl

/-! ### openMonitor -/

@[simp] theorem State.openMonitor_x : (State.openMonitor s).x = s.x := rfl
@[simp] theorem State.openMonitor_sp : (State.openMonitor s).sp = s.sp := rfl
@[simp] theorem State.openMonitor_pc : (State.openMonitor s).pc = s.pc := rfl
@[simp] theorem State.openMonitor_dit : (State.openMonitor s).dit = s.dit := rfl
@[simp] theorem State.openMonitor_mon : (State.openMonitor s).mon = .opened := rfl
@[simp] theorem State.openMonitor_tagChecked : (State.openMonitor s).tagChecked = s.tagChecked := rfl
@[simp] theorem State.openMonitor_mem : (State.openMonitor s).mem = s.mem := rfl
@[simp] theorem State.openMonitor_outcome : (State.openMonitor s).outcome = s.outcome := rfl
@[simp] theorem State.openMonitor_cfg : (State.openMonitor s).cfg = s.cfg := rfl
@[simp] theorem State.openMonitor_events : (State.openMonitor s).events = s.events := rfl
@[simp] theorem State.openMonitor_draw : (State.openMonitor s).draw = s.draw := rfl
@[simp] theorem State.openMonitor_drawIndex : (State.openMonitor s).drawIndex = s.drawIndex := rfl

/-! ### storeValue -/

@[simp] theorem State.storeValue_x (a : DWord) (sz : AccessSize) (v : DWord) : (State.storeValue s a sz v).x
    = s.x := rfl
@[simp] theorem State.storeValue_sp (a : DWord) (sz : AccessSize) (v : DWord) : (State.storeValue s a sz v).sp
    = s.sp := rfl
@[simp] theorem State.storeValue_pc (a : DWord) (sz : AccessSize) (v : DWord) : (State.storeValue s a sz v).pc
    = s.pc := rfl
@[simp] theorem State.storeValue_dit (a : DWord) (sz : AccessSize) (v : DWord) : (State.storeValue s a sz v).dit
    = s.dit := rfl
@[simp] theorem State.storeValue_mon (a : DWord) (sz : AccessSize) (v : DWord) : (State.storeValue s a sz v).mon
    = s.mon := rfl
@[simp] theorem State.storeValue_tagChecked (a : DWord) (sz : AccessSize) (v : DWord) : (State.storeValue s a sz v).tagChecked
    = s.tagChecked := rfl
@[simp] theorem State.storeValue_mem (a : DWord) (sz : AccessSize) (v : DWord) : (State.storeValue s a sz v).mem
    = (memWrite s.cfg.bigEndian s.mem a sz.dbytes v) := rfl
@[simp] theorem State.storeValue_outcome (a : DWord) (sz : AccessSize) (v : DWord) : (State.storeValue s a sz v).outcome
    = s.outcome := rfl
@[simp] theorem State.storeValue_cfg (a : DWord) (sz : AccessSize) (v : DWord) : (State.storeValue s a sz v).cfg
    = s.cfg := rfl
@[simp] theorem State.storeValue_events (a : DWord) (sz : AccessSize) (v : DWord) : (State.storeValue s a sz v).events
    = (s.events ++ [{ address := a, size := sz, data := v, acctype := .orderedAtomic }]) := rfl
@[simp] theorem State.storeValue_draw (a : DWord) (sz : AccessSize) (v : DWord) : (State.storeValue s a sz v).draw
    = s.draw := rfl
@[simp] theorem State.storeValue_drawIndex (a : DWord) (sz : AccessSize) (v : DWord) : (State.storeValue s a sz v).drawIndex
    = s.drawIndex := rfl

/-! ### markTagChecked -/

@[simp] theorem State.markTagChecked_x (rn : RegNum) : (State.markTagChecked s rn).x = s.x := rfl
@[simp] theorem State.markTagChecked_sp (rn : RegNum) : (State.markTagChecked s rn).sp = s.sp := rfl
@[simp] theorem State.markTagChecked_pc (rn : RegNum) : (State.markTagChecked s rn).pc = s.pc := rfl
@[simp] theorem State.markTagChecked_dit (rn : RegNum) : (State.markTagChecked s rn).dit = s.dit := rfl
@[simp] theorem State.markTagChecked_mon (rn : RegNum) : (State.markTagChecked s rn).mon = s.mon := rfl
@[simp] theorem State.markTagChecked_tagChecked (rn : RegNum) : (State.markTagChecked s rn).tagChecked
    = (if s.cfg.haveMte then some (rn != 31#5) else s.tagChecked) := rfl
@[simp] theorem State.markTagChecked_mem (rn : RegNum) : (State.markTagChecked s rn).mem = s.mem := rfl
@[simp] theorem State.markTagChecked_outcome (rn : RegNum) : (State.markTagChecked s rn).outcome = s.outcome := rfl
@[simp] theorem State.markTagChecked_cfg (rn : RegNum) : (State.markTagChecked s rn).cfg = s.cfg := rfl
@[simp] theorem State.markTagChecked_events (rn : RegNum) : (State.markTagChecked s rn).events = s.events := rfl
@[simp] theorem State.markTagChecked_draw (rn : RegNum) : (State.markTagChecked s rn).draw = s.draw := rfl
@[simp] theorem State.markTagChecked_drawIndex (rn : RegNum) : (State.markTagChecked s rn).drawIndex
    = s.drawIndex := rfl

/-! ### retire -/

@[simp] theorem State.retire_x : (State.retire s).x = s.x := rfl
@[simp] theorem State.retire_sp : (State.retire s).sp = s.sp := rfl
@[simp] theorem State.retire_pc : (State.retire s).pc = (s.pc + 4) := rfl
@[simp] theorem State.retire_dit : (State.retire s).dit = s.dit := rfl
@[simp] theorem State.retire_mon : (State.retire s).mon = s.mon := rfl
@[simp] theorem State.retire_tagChecked : (State.retire s).tagChecked = s.tagChecked := rfl
@[simp] theorem State.retire_mem : (State.retire s).mem = s.mem := rfl
@[simp] theorem State.retire_outcome : (State.retire s).outcome = s.outcome := rfl
@[simp] theorem State.retire_cfg : (State.retire s).cfg = s.cfg := rfl
@[simp] theorem State.retire_events : (State.retire s).events = s.events := rfl
@[simp] theorem State.retire_draw : (State.retire s).draw = (Draw.fresh s.drawIndex) := rfl
@[simp] theorem State.retire_drawIndex : (State.retire s).drawIndex = (s.drawIndex + 1) := rfl

/-! ### record -/

@[simp] theorem State.record_x (r : Terminal) : (State.record s r).x = s.x := rfl
@[simp] theorem State.record_sp (r : Terminal) : (State.record s r).sp = s.sp := rfl
@[simp] theorem State.record_pc (r : Terminal) : (State.record s r).pc = s.pc := rfl
@[simp] theorem State.record_dit (r : Terminal) : (State.record s r).dit = s.dit := rfl
@[simp] theorem State.record_mon (r : Terminal) : (State.record s r).mon = s.mon := rfl
@[simp] theorem State.record_tagChecked (r : Terminal) : (State.record s r).tagChecked = s.tagChecked := rfl
@[simp] theorem State.record_mem (r : Terminal) : (State.record s r).mem = s.mem := rfl
@[simp] theorem State.record_outcome (r : Terminal) : (State.record s r).outcome = (s.outcome <|> some r) := rfl
@[simp] theorem State.record_cfg (r : Terminal) : (State.record s r).cfg = s.cfg := rfl
@[simp] theorem State.record_events (r : Terminal) : (State.record s r).events = s.events := rfl
@[simp] theorem State.record_draw (r : Terminal) : (State.record s r).draw = s.draw := rfl
@[simp] theorem State.record_drawIndex (r : Terminal) : (State.record s r).drawIndex = s.drawIndex := rfl

end Sys2Proof.Machine
end

