-- ==== Sys2Proof/Laws/Execute.lean ====
section
/-! SUPPORT. What the shared operations of an instruction and of the run loop can do, said once: one lemma per operation,
which later proofs cite instead of unfolding it. -/

namespace Sys2Proof.Machine

/-! ### Registers -/

theorem State.readX_of_x_eq {s t : State} (h : t.x = s.x) (r : RegNum) : t.readX r = s.readX r := by
  simp only [State.readX, h]

@[simp] theorem State.readX_31 (s : State) : s.readX 31#5 = 0 := rfl

@[simp] theorem State.writeX_31 (s : State) (v : DWord) : s.writeX 31#5 v = s := rfl

theorem regNum_lt_31_iff : ∀ j : RegNum, j.toNat < 31 ↔ j ≠ 31#5 := by decide

/-- A register reads back what was written to it, unless it is number 31; every other register reads as before. -/
theorem State.readX_writeX (s : State) (i r : RegNum) (v : DWord) :
    (s.writeX i v).readX r = if r = i ∧ i ≠ 31#5 then v else s.readX r := by
  by_cases hi : i = 31#5
  · subst hi
    rw [if_neg (by simp)]
    exact congrArg (State.readX · r) (State.writeX_31 s v)
  · have hlt := (regNum_lt_31_iff i).mpr hi
    by_cases hr : r = i
    · subst hr
      rw [if_pos ⟨rfl, hi⟩]
      simp [State.readX, hlt]
    · have hn : ¬ i.toNat = r.toNat := fun h => hr (BitVec.eq_of_toNat_eq h.symm)
      rw [if_neg (by simp [hr])]
      by_cases hr' : r.toNat < 31
      · simp [State.readX, hlt, hr', hn]
      · simp [State.readX, hr']

/-! ### The overlap checks and the address -/

/-- Without an overlap both checks pass with nothing UNKNOWN (R96, R97). -/
theorem overlapChecks_of_overlapFree {i : Instr} (c : Config) (h : i.overlapFree = true) :
    overlapChecks c i.rs i.rn i.rt = .proceed false false := by
  simp only [Instr.overlapFree, Instr.dataOverlaps, Instr.baseOverlaps, Bool.and_eq_true, Bool.not_eq_true'] at h
  simp only [overlapChecks, overlapCheck, dataOverlap, baseOverlap, h.1, h.2]
  rfl

/-- The base address depends on the registers, the stack pointer, the check and the draw alone (R98). -/
theorem baseAddress_ok {s : State} {rn : RegNum} {u : Bool} {a : DWord} (h : baseAddress s rn u = .ok a) :
    (rn = 31#5 ∧ spAligned s = true ∧ a = s.sp) ∨ (rn ≠ 31#5 ∧ a = if u then s.draw.address else s.readX rn) := by
  unfold baseAddress at h
  split_ifs at h with h1 h2 h3
  · simp only [Except.ok.injEq] at h
    exact .inl ⟨h1, h2, h.symm⟩
  · simp only [Except.ok.injEq] at h
    exact .inr ⟨h1, by simp [h3, h]⟩
  · simp only [Except.ok.injEq] at h
    exact .inr ⟨h1, by simp [h3, h]⟩

/-! ### The instruction and the step -/

/-- Everything an access that answers a next state has done: it missed the program text, and stored or did not. -/
theorem accessAndStatus_next {s t : State} {sz : AccessSize} {rs : RegNum} {a v : DWord}
    (h : accessAndStatus s sz rs a v = .next t) :
    meetsProgramText s.cfg a sz = false ∧
    ((accessOutcome s a sz = .success ∧ t = State.stored s sz rs a v)
      ∨ (accessOutcome s a sz = .fail ∧ t = State.notStored s rs)) := by
  unfold accessAndStatus at h
  split_ifs at h with hp
  refine ⟨by simpa using hp, ?_⟩
  split at h
  · rename_i hs
    exact .inl ⟨hs, by simpa using h.symm⟩
  · rename_i hf
    exact .inr ⟨hf, by simpa using h.symm⟩
  · simp [raise] at h

/-- Everything an instruction that answers a next state has done: it ended in its overlap checks, or it reached its access
and stored, or it reached its access and did not store (R110). -/
theorem storeReleaseExclusive_next {s t : State} {sz : AccessSize} {rs rn rt : RegNum}
    (h : storeReleaseExclusive s sz rs rn rt = .next t) :
    s.cfg.haveMte = false ∧
    ((overlapChecks s.cfg rs rn rt = .endOfInstruction ∧ t = s.retire)
    ∨ ∃ rtUnknown rnUnknown a, overlapChecks s.cfg rs rn rt = .proceed rtUnknown rnUnknown
        ∧ baseAddress s rn rnUnknown = .ok a ∧ meetsProgramText s.cfg a sz = false
        ∧ ((accessOutcome s a sz = .success
            ∧ t = State.stored (s.markTagChecked rn) sz rs a (storeData s sz rt rtUnknown))
          ∨ (accessOutcome s a sz = .fail ∧ t = State.notStored (s.markTagChecked rn) rs))) := by
  unfold storeReleaseExclusive at h
  split_ifs at h with hm
  refine ⟨by simpa using hm, ?_⟩
  split at h
  · simp [raise] at h
  · rename_i ho
    exact .inl ⟨ho, by simpa using h.symm⟩
  · rename_i ru bu ho
    split at h
    · simp [raise] at h
    · rename_i a ha
      exact .inr ⟨ru, bu, a, ho, ha, accessAndStatus_next h⟩

/-- Both variants run the one Operation at their data size (R90, R91). -/
theorem exec_eq (i : Instr) (s : State) : exec i s = storeReleaseExclusive s i.size i.rs i.rn i.rt := by
  cases i <;> rfl

/-- An instruction that answers a next state leaves the draw of its counter, and the counter one further on (R145, log 9). -/
theorem exec_next_draw {i : Instr} {s t : State} (h : exec i s = .next t) :
    t.draw = Draw.fresh s.drawIndex ∧ t.drawIndex = s.drawIndex + 1 := by
  rw [exec_eq] at h
  obtain ⟨-, ⟨-, rfl⟩ | ⟨_, _, _, -, -, -, ⟨-, rfl⟩ | ⟨-, rfl⟩⟩⟩ := storeReleaseExclusive_next h <;> exact ⟨rfl, rfl⟩

/-- Everything a step that answers a next state has done: it ran an instruction where the run loop may step, or it passed
over a word under SBO_POLICY `nop`; and `pc` was inside the text (R141). -/
theorem step_next {s t : State} (h : step s = .next t) :
    s.cfg.haveMte = false ∧ s.outcome = none ∧ s.pc.toNat % 4 = 0 ∧ s.cfg.base.toNat ≤ s.pc.toNat
    ∧ s.pc.toNat < textEnd s.cfg ∧ ((∃ i, exec i s = .next t) ∨ t = s.retire) := by
  unfold step at h
  have key : (∃ i, nextAction s = .execute i) ∨ nextAction s = .completeOnly →
      s.cfg.haveMte = false ∧ s.outcome = none ∧ s.pc.toNat % 4 = 0 ∧ s.cfg.base.toNat ≤ s.pc.toNat
      ∧ s.pc.toNat < textEnd s.cfg := by
    intro hk
    unfold nextAction at hk
    cases hm : s.cfg.haveMte with
    | true => simp [hm] at hk
    | false =>
    rw [hm, if_neg (by simp)] at hk
    cases ho : s.outcome with
    | some r => cases r <;> simp [ho, terminalAction] at hk
    | none =>
      rw [ho] at hk
      dsimp only at hk
      split_ifs at hk with h1 h2 h3
      · simp at hk
      · simp at hk
      · simp at hk
      ·
        simp only [Bool.or_eq_true, decide_eq_true_eq] at h3
        exact ⟨rfl, rfl, by omega, by omega, by omega⟩
  cases hn : nextAction s with
  | execute i =>
    rw [hn] at h
    obtain ⟨k1, k2, k3, k4, k5⟩ := key (.inl ⟨i, hn⟩)
    exact ⟨k1, k2, k3, k4, k5, .inl ⟨i, h⟩⟩
  | completeOnly =>
    rw [hn] at h
    obtain ⟨k1, k2, k3, k4, k5⟩ := key (.inr hn)
    exact ⟨k1, k2, k3, k4, k5, .inr (by simpa using h.symm)⟩
  | fault f => simp [hn] at h
  | refuse r => simp [hn] at h

end Sys2Proof.Machine
end

