-- ==== Sys2Proof/Laws/Memory.lean ====
section
/-! SUPPORT. Memory: a read after a write, and the canonical form, which every memory operation keeps. -/

namespace Sys2Proof.Machine

theorem Memory.read_erase (m : Memory) (a b : Nat) :
    Memory.read (Memory.erase m a) b = if b = a then Memory.unlisted else Memory.read m b := by
  induction m with
  | nil => simp [Memory.erase, Memory.read]
  | cons c rest ih =>
    obtain ⟨e, u⟩ := c
    by_cases he : e = a
    · have h : Memory.erase ((e, u) :: rest) a = Memory.erase rest a := by simp [Memory.erase, he]
      rw [h, ih]
      by_cases hb : b = a
      · simp [hb]
      · simp only [hb, if_false, Memory.read, if_neg (show e ≠ b by omega)]
    · have h : Memory.erase ((e, u) :: rest) a = (e, u) :: Memory.erase rest a := by simp [Memory.erase, he]
      rw [h]
      simp only [Memory.read, ih]
      by_cases hb : e = b
      · simp [hb, show b ≠ a by omega]
      · simp only [hb, if_false]

theorem Memory.read_insert_other (m : Memory) (a b : Nat) (v : Byte) (h : b ≠ a) :
    Memory.read (Memory.insert m a v) b = Memory.read m b := by
  induction m with
  | nil => simp [Memory.insert, Memory.read, h.symm]
  | cons c rest ih =>
    obtain ⟨e, u⟩ := c
    by_cases he : a < e
    · simp only [Memory.insert, if_pos he, Memory.read, if_neg h.symm]
    · simp only [Memory.insert, if_neg he, Memory.read, ih]

theorem Memory.read_insert_same (m : Memory) (a : Nat) (v : Byte) (h : ∀ c ∈ m, c.1 ≠ a) :
    Memory.read (Memory.insert m a v) a = v := by
  induction m with
  | nil => simp [Memory.insert, Memory.read]
  | cons c rest ih =>
    obtain ⟨e, u⟩ := c
    have he : e ≠ a := h (e, u) (by simp)
    by_cases hl : a < e
    · simp [Memory.insert, Memory.read, hl]
    · simp only [Memory.insert, if_neg hl, Memory.read, if_neg he]
      exact ih fun c hc => h c (by simp [hc])

/-- A read after a write: the byte written at its address, and every other address as before. -/
theorem Memory.read_write (m : Memory) (a b : Nat) (v : Byte) :
    Memory.read (Memory.write m a v) b = if b = a then v else Memory.read m b := by
  unfold Memory.write
  by_cases hv : v = Memory.unlisted
  · simp only [hv, if_true, Memory.read_erase]
  · rw [if_neg hv]
    by_cases hb : b = a
    · subst hb
      simp only [if_true]
      exact Memory.read_insert_same _ _ _ fun c hc => by simpa [Memory.erase] using (List.mem_filter.mp hc).2
    · rw [Memory.read_insert_other _ _ _ _ hb, Memory.read_erase, if_neg hb, if_neg hb]

/-- A read outside the bytes written reads as before. -/
theorem Memory.read_writeBytes_outside (m : Memory) (a b : Nat) (bs : List Byte) (h : b < a ∨ a + bs.length ≤ b) :
    Memory.read (Memory.writeBytes m a bs) b = Memory.read m b := by
  induction bs generalizing m a with
  | nil => rfl
  | cons v rest ih =>
    simp only [List.length_cons] at h
    rw [Memory.writeBytes, ih _ _ (by omega), Memory.read_write, if_neg (by omega)]

/-- A read inside the bytes written gives the byte written there. -/
theorem Memory.read_writeBytes_inside (m : Memory) (a k : Nat) (bs : List Byte) (h : k < bs.length) :
    Memory.read (Memory.writeBytes m a bs) (a + k) = bs[k] := by
  induction bs generalizing m a k with
  | nil => simp at h
  | cons v rest ih =>
    rw [Memory.writeBytes]
    cases k with
    | zero => rw [Memory.read_writeBytes_outside _ _ _ _ (by omega), Memory.read_write]; simp
    | succ k =>
      have := ih (Memory.write m a v) (a + 1) k (by simpa using h)
      rw [show a + (k + 1) = a + 1 + k by omega, this]
      rfl

/-! ### The canonical form -/

theorem Memory.wfFrom_mono {m : Memory} {lo lo' : Nat} (h : Memory.wfFrom lo m = true) (hl : lo' ≤ lo) :
    Memory.wfFrom lo' m = true := by
  cases m with
  | nil => rfl
  | cons c rest =>
    obtain ⟨b, v⟩ := c
    simp only [Memory.wfFrom, Bool.and_eq_true, decide_eq_true_eq] at h ⊢
    exact ⟨⟨⟨by omega, h.1.1.2⟩, h.1.2⟩, h.2⟩

theorem Memory.erase_wfFrom (m : Memory) (a lo : Nat) (h : Memory.wfFrom lo m = true) :
    Memory.wfFrom lo (Memory.erase m a) = true := by
  induction m generalizing lo with
  | nil => rfl
  | cons c rest ih =>
    obtain ⟨e, u⟩ := c
    simp only [Memory.wfFrom, Bool.and_eq_true, decide_eq_true_eq] at h
    by_cases he : e = a
    · have hs : Memory.erase ((e, u) :: rest) a = Memory.erase rest a := by simp [Memory.erase, he]
      rw [hs]
      exact Memory.wfFrom_mono (ih _ h.2) (by omega)
    · have hs : Memory.erase ((e, u) :: rest) a = (e, u) :: Memory.erase rest a := by simp [Memory.erase, he]
      rw [hs]
      simp only [Memory.wfFrom, Bool.and_eq_true, decide_eq_true_eq]
      exact ⟨h.1, ih _ h.2⟩

theorem Memory.insert_wfFrom (m : Memory) (a lo : Nat) (v : Byte) (h : Memory.wfFrom lo m = true)
    (hm : ∀ c ∈ m, c.1 ≠ a) (hv : v ≠ Memory.unlisted) (hlo : lo ≤ a) (ha : a < 2 ^ 64) :
    Memory.wfFrom lo (Memory.insert m a v) = true := by
  induction m generalizing lo with
  | nil =>
    simp only [Memory.insert, Memory.wfFrom, Bool.and_eq_true, decide_eq_true_eq, bne_iff_ne, and_true]
    exact ⟨⟨hlo, ha⟩, hv⟩
  | cons c rest ih =>
    obtain ⟨e, u⟩ := c
    have he : e ≠ a := hm (e, u) (by simp)
    simp only [Memory.wfFrom, Bool.and_eq_true, decide_eq_true_eq, bne_iff_ne] at h
    by_cases hl : a < e
    · simp only [Memory.insert, if_pos hl, Memory.wfFrom, Bool.and_eq_true, decide_eq_true_eq, bne_iff_ne]
      exact ⟨⟨⟨hlo, ha⟩, hv⟩, ⟨⟨by omega, h.1.1.2⟩, h.1.2⟩, h.2⟩
    · simp only [Memory.insert, if_neg hl, Memory.wfFrom, Bool.and_eq_true, decide_eq_true_eq, bne_iff_ne]
      exact ⟨h.1, ih _ h.2 (fun c hc => hm c (by simp [hc])) (by omega)⟩

/-- A write keeps the canonical form. -/
theorem Memory.write_wf {m : Memory} {a : Nat} {v : Byte} (h : Memory.wf m = true) (ha : a < 2 ^ 64) :
    Memory.wf (Memory.write m a v) = true := by
  unfold Memory.write
  split_ifs with hv
  · exact Memory.erase_wfFrom m a 0 h
  · exact Memory.insert_wfFrom _ _ _ _ (Memory.erase_wfFrom m a 0 h)
      (fun c hc => by simpa [Memory.erase] using (List.mem_filter.mp hc).2) hv (Nat.zero_le _) ha

theorem Memory.writeBytes_wf {m : Memory} {a : Nat} {bs : List Byte} (h : Memory.wf m = true)
    (ha : a + bs.length ≤ 2 ^ 64) : Memory.wf (Memory.writeBytes m a bs) = true := by
  induction bs generalizing m a with
  | nil => exact h
  | cons b rest ih =>
    simp only [List.length_cons] at ha
    exact ih (Memory.write_wf h (by omega)) (by omega)

@[simp] theorem bytesInMemory_length (be : Bool) (n : Nat) (v : DWord) : (bytesInMemory be n v).length = n := by
  simp [bytesInMemory]

/-- `MemWrite` keeps the canonical form wherever the range does not wrap. -/
theorem memWrite_wf {be : Bool} {m : Memory} {a : DWord} {n : Nat} {v : DWord} (h : Memory.wf m = true)
    (ha : a.toNat + n ≤ 2 ^ 64) : Memory.wf (memWrite be m a n v) = true :=
  Memory.writeBytes_wf h (by simpa using ha)

theorem reset_memory_wf : Memory.wf State.reset.mem = true := rfl

end Sys2Proof.Machine
end

