-- ==== Sys2Proof/Laws/PerInstr.lean ====
section
/-! SUPPORT. Statements about every instruction as text, one lemma per constructor: the word of each instruction has the
fixed bits of its row of spec/opcode_table.json (R74). -/

namespace Sys2Proof.Laws.FixedBits

/-- The word of an instruction under its row's mask is its row's match. -/
def Statement : Instr → Prop
  | .stlxr32 rs rn rt => encode (.stlxr32 rs rn rt) &&& 0xFFE0FC00#32 = 0x8800FC00#32
  | .stlxr64 rs rn rt => encode (.stlxr64 rs rn rt) &&& 0xFFE0FC00#32 = 0xC800FC00#32

theorem stlxr32 (rs rn rt : RegNum) : Statement (.stlxr32 rs rn rt) :=
  (and_mask_eq_match32_iff _).mpr ⟨(encode_bits_31_21 _).trans (stlxr32_high_bits rs rn rt), encode_bits_15_10 _⟩

theorem stlxr64 (rs rn rt : RegNum) : Statement (.stlxr64 rs rn rt) :=
  (and_mask_eq_match64_iff _).mpr ⟨(encode_bits_31_21 _).trans (stlxr64_high_bits rs rn rt), encode_bits_15_10 _⟩

end Sys2Proof.Laws.FixedBits
end

