-- ==== Sys2Proof/Laws/StoreExclusive.lean ====
section
/-! SUPPORT. What each step of the Operation does, in the words of R96 to R99, R52 and R110: one lemma per shared operation,
which later proofs cite instead of unfolding it. -/

namespace Sys2Proof.Machine

/-- The two access sizes in bytes (R40). -/
theorem dbytes_cases (sz : AccessSize) : sz.dbytes = 4 ∨ sz.dbytes = 8 := by cases sz <;> decide

/-- The state `stored` builds is the row "stored" of R110. -/
theorem stored_is_Stored (i : Instr) (s : State) (a d : DWord) (hm : s.cfg.haveMte = false) :
    Stored i a d s (State.stored (s.markTagChecked i.rn) i.size i.rs a d) where
  pc := by simp [State.stored, State.completeWithStatus, State.writeW]
  registers r hr := by
    have : (State.stored (s.markTagChecked i.rn) i.size i.rs a d).x = (s.writeW i.rs (statusWord true)).x := rfl
    rw [State.readX_of_x_eq this, State.writeW, State.readX_writeX, if_neg (by simp [hr])]
  sp := rfl
  dit := rfl
  tagChecked := by simp [State.stored, State.completeWithStatus, State.writeW, hm]
  outcome := rfl
  cfg := rfl
  bytes k hk := by
    show Memory.read (memWrite s.cfg.bigEndian s.mem a i.size.dbytes d) _ = _
    rw [memWrite, Memory.read_writeBytes_inside _ _ _ _ (by simpa using hk)]
    simp [bytesInMemory]
  elsewhere b hb := by
    show Memory.read (memWrite s.cfg.bigEndian s.mem a i.size.dbytes d) _ = _
    rw [memWrite, Memory.read_writeBytes_outside _ _ _ _ (by simpa using hb)]
  status := by
    have : (State.stored (s.markTagChecked i.rn) i.size i.rs a d).x = (s.writeW i.rs (statusWord true)).x := rfl
    rw [State.readX_of_x_eq this, State.writeW, State.readX_writeX]
    split_ifs with h
    · decide
    · simp only [ne_eq, true_and, not_not] at h
      rw [h]; rfl
  mon := rfl
  events := rfl

/-- The state `notStored` builds is the row "not stored" of R110. -/
theorem notStored_is_NotStored (i : Instr) (s : State) (hm : s.cfg.haveMte = false) :
    NotStored i s (State.notStored (s.markTagChecked i.rn) i.rs) where
  pc := by simp [State.notStored, State.completeWithStatus, State.writeW]
  registers r hr := by
    have : (State.notStored (s.markTagChecked i.rn) i.rs).x = (s.writeW i.rs (statusWord false)).x := rfl
    rw [State.readX_of_x_eq this, State.writeW, State.readX_writeX, if_neg (by simp [hr])]
  sp := rfl
  dit := rfl
  tagChecked := by simp [State.notStored, State.completeWithStatus, State.writeW, hm]
  outcome := rfl
  cfg := rfl
  mem := rfl
  status := by
    have : (State.notStored (s.markTagChecked i.rn) i.rs).x = (s.writeW i.rs (statusWord false)).x := rfl
    rw [State.readX_of_x_eq this, State.writeW, State.readX_writeX]
    by_cases h : i.rs = 31#5
    · rw [if_neg (by simp [h]), if_pos h, h]; rfl
    · rw [if_pos ⟨rfl, h⟩, if_neg h]; decide
  mon := rfl
  events := rfl

/-- Retiring alone is the row "NOP by constraint" of R110. -/
theorem retire_is_NopByConstraint (i : Instr) (s : State) : NopByConstraint i s s.retire where
  pc := rfl
  registers _ _ := rfl
  sp := rfl
  dit := rfl
  tagChecked := rfl
  outcome := rfl
  cfg := rfl
  mem := rfl
  status := rfl
  mon := rfl
  events := rfl

/-- Everything the two overlap checks can do, and when (R96, R97). -/
theorem overlapChecks_cases (i : Instr) (s : State) :
    (goesOn i s = true ∧ overlapChecks s.cfg i.rs i.rn i.rt = .proceed
        (i.dataOverlaps && s.cfg.constrainDataOverlap == .unknown)
        (i.baseOverlaps && s.cfg.constrainBaseOverlap == .unknown))
    ∨ (goesOn i s = false ∧ overlapChecks s.cfg i.rs i.rn i.rt = .undefined ∧
        (i.dataOverlaps = true ∧ s.cfg.constrainDataOverlap = .undef ∨
          ¬(i.dataOverlaps = true ∧ (s.cfg.constrainDataOverlap = .undef ∨ s.cfg.constrainDataOverlap = .nop))
            ∧ i.baseOverlaps = true ∧ s.cfg.constrainBaseOverlap = .undef))
    ∨ (goesOn i s = false ∧ overlapChecks s.cfg i.rs i.rn i.rt = .endOfInstruction ∧
        (i.dataOverlaps = true ∧ s.cfg.constrainDataOverlap = .nop ∨
          ¬(i.dataOverlaps = true ∧ (s.cfg.constrainDataOverlap = .undef ∨ s.cfg.constrainDataOverlap = .nop))
            ∧ i.baseOverlaps = true ∧ s.cfg.constrainBaseOverlap = .nop)) := by
  have h1 : dataOverlap i.rs i.rt = i.dataOverlaps := rfl
  have h2 : baseOverlap i.rs i.rn = i.baseOverlaps := rfl
  simp only [goesOn, overlapChecks, h1, h2]
  generalize i.dataOverlaps = p
  generalize i.baseOverlaps = q
  generalize s.cfg.constrainDataOverlap = c
  generalize s.cfg.constrainBaseOverlap = d
  revert p q c d
  intro p q c d
  cases p <;> cases q <;> cases c <;> cases d <;> decide

/-- The address step is the check of the stack pointer, then the effective address (R46, R98). -/
theorem baseAddress_eq (i : Instr) (s : State) :
    baseAddress s i.rn (i.baseOverlaps && s.cfg.constrainBaseOverlap == .unknown)
      = if spCheckPasses i s then .ok (effectiveAddress i s) else .error Fault.spAlignment := by
  unfold baseAddress spCheckPasses effectiveAddress spAligned
  by_cases h : i.rn = 31#5
  · simp only [h, if_true]
    cases s.cfg.spAlignCheck <;> by_cases h2 : s.sp.toNat % 16 = 0 <;> simp [h2]
  · have : (i.rn != 31#5) = true := by simpa using h
    simp only [h, if_false, this, Bool.true_or, if_true]
    split_ifs <;> rfl

/-- The data step reads the effective data (R99). -/
theorem storeData_eq (i : Instr) (s : State) :
    storeData s i.size i.rt (i.dataOverlaps && s.cfg.constrainDataOverlap == .unknown) = effectiveData i s := rfl

/-- Everything an instruction can answer on a machine without tagging, with the conditions of R110: it reaches its access, or
it is refused at the program text, or it faults, or it ends as a NOP. -/
theorem exec_cases (i : Instr) (s : State) (hm : s.cfg.haveMte = false) :
    (reachesAccess i s = true ∧ exec i s = (match accessOutcome s (effectiveAddress i s) i.size with
        | .success => .next (State.stored (s.markTagChecked i.rn) i.size i.rs (effectiveAddress i s) (effectiveData i s))
        | .fail => .next (State.notStored (s.markTagChecked i.rn) i.rs)
        | .abort k => .fault (.dataAbort k (effectiveAddress i s) s.pc)))
    ∨ (reachesAccess i s = false ∧ goesOn i s = true ∧ spCheckPasses i s = true
        ∧ meetsProgramText s.cfg (effectiveAddress i s) i.size = true
        ∧ exec i s = .refused .storeIntoProgramText)
    ∨ (reachesAccess i s = false ∧ goesOn i s = true ∧ spCheckPasses i s = false
        ∧ exec i s = .fault (.spAlignment s.pc))
    ∨ (reachesAccess i s = false ∧ goesOn i s = false ∧ exec i s = .fault (.undefined s.pc)
        ∧ overlapChecks s.cfg i.rs i.rn i.rt = .undefined)
    ∨ (reachesAccess i s = false ∧ goesOn i s = false ∧ exec i s = .next s.retire
        ∧ overlapChecks s.cfg i.rs i.rn i.rt = .endOfInstruction) := by
  rw [exec_eq]
  unfold storeReleaseExclusive
  rw [if_neg (by simp [hm])]
  rcases overlapChecks_cases i s with ⟨hg, ho⟩ | ⟨hg, ho, hc⟩ | ⟨hg, ho, hc⟩
  · rw [ho]
    dsimp only
    rw [baseAddress_eq]
    by_cases hs : spCheckPasses i s = true
    · rw [if_pos hs, storeData_eq]
      dsimp only
      unfold accessAndStatus
      by_cases hp : meetsProgramText s.cfg (effectiveAddress i s) i.size = true
      · right; left
        refine ⟨by simp [reachesAccess, hp], hg, hs, hp, ?_⟩
        exact if_pos hp
      · left
        refine ⟨by simp [reachesAccess, hm, hg, hs, hp], ?_⟩
        exact if_neg hp
    · right; right; left
      rw [if_neg hs]
      exact ⟨by simp [reachesAccess, hs], hg, by simpa using hs, rfl⟩
  · right; right; right; left
    rw [ho]
    exact ⟨by simp [reachesAccess, hg], hg, rfl, rfl⟩
  · right; right; right; right
    rw [ho]
    exact ⟨by simp [reachesAccess, hg], hg, rfl, rfl⟩

/-- A machine with HAVE_MTE refuses every instruction (R110, D17). -/
theorem exec_of_haveMte (i : Instr) (s : State) (hm : s.cfg.haveMte = true) : exec i s = .refused .taggingConfigured := by
  rw [exec_eq]; unfold storeReleaseExclusive; rw [if_pos hm]

/-- No instruction answers that the run is over: the run loop alone does (R142, log 10). -/
theorem exec_ne_runOver (i : Instr) (s : State) : exec i s ≠ .refused .runOver := by
  intro h
  cases hm : s.cfg.haveMte with
  | true => rw [exec_of_haveMte i s hm] at h; cases h
  | false =>
    rcases exec_cases i s hm with ⟨-, he⟩ | ⟨-, -, -, -, he⟩ | ⟨-, -, -, he⟩ | ⟨-, -, he, -⟩ | ⟨-, -, he, -⟩ <;> rw [he] at h
    · split at h <;> cases h
    all_goals cases h

/-- An instruction that reaches its access is on a machine without tagging. -/
theorem haveMte_of_reachesAccess {i : Instr} {s : State} (h : reachesAccess i s = true) : s.cfg.haveMte = false := by
  simp [reachesAccess] at h; tauto

/-- `would_abort` of R52 at the effective address. -/
theorem wouldAbort_eq (i : Instr) (s : State) : wouldAbort s.cfg (effectiveAddress i s) i.size = !accessAllowed i s := by
  simp [wouldAbort, accessAllowed, aligned]

/-- The outcome of the access, case by case of R52. -/
theorem accessOutcome_eq (s : State) (a : DWord) (sz : AccessSize) :
    accessOutcome s a sz =
      if wouldAbort s.cfg a sz = true then
        (if s.cfg.abortWhenMonitorFails ≠ .always ∧ (¬(mayPass s.cfg s.mon a sz = true
            ∨ s.cfg.abortWhenMonitorFails ≠ .never) ∨ s.draw.storeFails = true) then .fail
          else .abort (abortKind a sz))
      else (if mayPass s.cfg s.mon a sz = true ∧ s.draw.storeFails = false then .success else .fail) := by
  unfold accessOutcome otherOutcome
  by_cases h : wouldAbort s.cfg a sz = true
  · simp only [admitted, h, if_true]
    cases mayPass s.cfg s.mon a sz <;> cases s.cfg.abortWhenMonitorFails <;> cases s.draw.storeFails <;> simp
  · simp only [admitted, h]
    cases mayPass s.cfg s.mon a sz <;> cases s.draw.storeFails <;> simp

/-- The monitor includes an access exactly when the access lies in the marked range (R29, log 17). -/
theorem includes_exclusive_iff (base : DWord) (len : Nat) (a : DWord) (n : Nat) :
    Monitor.includes (.exclusive base len) a n = true
      ↔ base.toNat ≤ a.toNat ∧ a.toNat + n ≤ base.toNat + len := by
  simp [Monitor.includes]

/-- Where no unmarked store may succeed, the monitor may pass exactly when it includes the access (R52, R53). -/
theorem mayPass_eq_includes {c : Config} (h : c.unmarkedStoreMaySucceed = false) (mon : Monitor) (a : DWord)
    (sz : AccessSize) : mayPass c mon a sz = Monitor.includes mon a sz.dbytes := by
  simp [mayPass, h]

/-- The open monitor never passes (R53). -/
theorem mayPass_opened (c : Config) (a : DWord) (sz : AccessSize) : mayPass c .opened a sz = false := by
  simp [mayPass, Monitor.includes]

/-- Everything an instruction that answers a next state has done, in the words of R110. -/
theorem exec_next_cases {i : Instr} {s t : State} (h : exec i s = .next t) :
    s.cfg.haveMte = false ∧
    ((goesOn i s = false ∧ NopByConstraint i s t ∧ t = s.retire ∧ overlapChecks s.cfg i.rs i.rn i.rt = .endOfInstruction)
    ∨ (goesOn i s = true ∧ reachesAccess i s = true ∧
      ((accessAllowed i s = true ∧ mayPass s.cfg s.mon (effectiveAddress i s) i.size = true
          ∧ Stored i (effectiveAddress i s) (effectiveData i s) s t)
        ∨ NotStored i s t))) := by
  have hm : s.cfg.haveMte = false := by rw [exec_eq] at h; exact (storeReleaseExclusive_next h).1
  refine ⟨hm, ?_⟩
  rcases exec_cases i s hm with ⟨hr, he⟩ | h' | h' | h' | h'
  · right
    have hg : goesOn i s = true := by simp [reachesAccess] at hr; tauto
    refine ⟨hg, hr, ?_⟩
    rw [accessOutcome_eq, wouldAbort_eq] at he
    by_cases ha : accessAllowed i s = true
    · rw [if_neg (by simp [ha])] at he
      split_ifs at he with hp
      · left; refine ⟨ha, hp.1, ?_⟩
        dsimp only at he
        rw [he] at h
        cases h
        exact stored_is_Stored i s _ _ hm
      · right
        dsimp only at he
        rw [he] at h
        cases h
        exact notStored_is_NotStored i s hm
    · rw [if_pos (by simp [ha])] at he
      split_ifs at he with hp
      · right
        dsimp only at he
        rw [he] at h
        cases h
        exact notStored_is_NotStored i s hm
      · dsimp only at he
        rw [he] at h
        cases h
  · rw [h'.2.2.2.2] at h; cases h
  · rw [h'.2.2.2] at h; cases h
  · rw [h'.2.2.1] at h; cases h
  · left
    rw [h'.2.2.1] at h; cases h
    exact ⟨h'.2.1, retire_is_NopByConstraint i s, rfl, h'.2.2.2⟩

end Sys2Proof.Machine
end

