-- ==== Sys2Proof/Tests/Slice0.lean ====
section
/-! SUPPORT. The model's own tests. Expected results come from spec/95_test_vectors.md (V, X, Y, Z, O, Q, P) or by hand from
the rules cited. Part 1 tests words; part 2 the two instructions and the run loop; part 3 witnesses that the hypotheses of
each statement can be met together, with one for each clause. -/

namespace Sys2Proof.Machine.Tests

/-! ## Part 1: words -/

/-- V1: 1 0 001000 0 0 0 00010 1 11111 00000 00001, size 10. -/
theorem test_decode_v1 : decode 0b10001000000000101111110000000001#32 = .instr (.stlxr32 2 0 1) := by decide

/-- V4: 1 1 001000 0 0 0 00011 1 11111 00101 00100, size 11. -/
theorem test_decode_v4 : decode 0b11001000000000111111110010100100#32 = .instr (.stlxr64 3 5 4) := by decide

/-- V12, V13, V14, V15: distinct operands, the lowest and the highest words. -/
theorem test_decode_edges :
    decode 0xC81EFF9D#32 = .instr (.stlxr64 30 28 29) ∧ decode 0x8800FC00#32 = .instr (.stlxr32 0 0 0)
    ∧ decode 0xC81FFFFF#32 = .instr (.stlxr64 31 31 31) ∧ decode 0x881FFFFF#32 = .instr (.stlxr32 31 31 31) := by
  decide

/-- V21 to V24: should-be-one violations. -/
theorem test_decode_sbo :
    decode 0x88028001#32 = .sboViolation (.stlxr32 2 0 1) ∧ decode 0x8802F801#32 = .sboViolation (.stlxr32 2 0 1)
    ∧ decode 0x8802BC01#32 = .sboViolation (.stlxr32 2 0 1) ∧ decode 0xC8008000#32 = .sboViolation (.stlxr64 0 0 0) := by
  decide

/-- V25 to V33: words out of scope. -/
theorem test_decode_not_in_scope :
    [0x88027C01#32, 0x8842FC01#32, 0x8822FC01#32, 0x8882FC01#32, 0x0802FC01#32, 0x4802FC01#32, 0x8902FC01#32,
      0x88408000#32, 0x00000000#32, 0xFFFFFFFF#32, 0xD503201F#32].map decode = List.replicate 11 .notInScope := by
  decide

/-- V3, V5, V8, V10: the encoder's words. -/
theorem test_encode :
    encode (.stlxr64 2 0 1) = 0xC802FC01#32 ∧ encode (.stlxr64 9 31 10) = 0xC809FFEA#32
    ∧ encode (.stlxr32 31 0 1) = 0x881FFC01#32 ∧ encode (.stlxr32 5 31 6) = 0x8805FFE6#32 := by decide

/-- V7: the bytes `89 FC 1F C8`, and a list of bytes too short for a word. -/
theorem test_decode_bytes :
    bytesOfWord 0xC81FFC89#32 = [0x89, 0xFC, 0x1F, 0xC8]
    ∧ decodeBytes [0x89, 0xFC, 0x1F, 0xC8, 0xAA] = .ok (.stlxr64 31 4 9, [0xAA])
    ∧ decodeBytes [0x89, 0xFC, 0x1F] = .error .truncated ∧ decodeBytes [0x01, 0x80, 0x02, 0x88] = .error .sboViolation
    ∧ decodeBytes [0x1F, 0x20, 0x03, 0xD5] = .error .notInScope := ⟨by decide, by rfl, by rfl, by rfl, by rfl⟩

/-- The two rows of the table with every operand 0. -/
theorem test_decode_table_words :
    decodeTableWord 32 0x8800FC00 = some (.stlxr32 0 0 0) ∧ decodeTableWord 32 0xC800FC00 = some (.stlxr64 0 0 0) := by
  decide

/-- V6, V9: the text of a disassembled word. -/
theorem test_disassembly :
    (disassemble (.stlxr64 9 31 31)).text = "STLXR W9, XZR, [SP]"
    ∧ (disassemble (.stlxr32 2 0 31)).text = "STLXR W2, WZR, [X0]" := by decide

/-- R79, R82: `XZR` cannot be the base, no offset but `#0`, and the status register has a `W` name. -/
theorem test_assembler_rejects :
    assemble { status := ⟨.w, 2⟩, data := ⟨.x, 1⟩, base := .x 31, offset := none } = none
    ∧ assemble { status := ⟨.w, 2⟩, data := ⟨.x, 1⟩, base := .sp, offset := some 8 } = none
    ∧ assemble { status := ⟨.x, 2⟩, data := ⟨.x, 1⟩, base := .sp, offset := none } = none
    ∧ assemble { status := ⟨.w, 2⟩, data := ⟨.x, 1⟩, base := .x 0, offset := some 0 } = some (.stlxr64 2 0 1) := by
  decide

/-- R141: a text that is not on a word boundary, and a text that runs to the end of the address space, are ill formed. -/
theorem test_wellFormed_smoke :
    Config.baseAligned { launchConfig with base := 0x10002 } = false
    ∧ Config.textFits { launchConfig with base := 0xFFFFFFFFFFFFFFFC, prog := [0x8802FC01#32] } = false
    ∧ Config.wellFormed { launchConfig with prog := [0x8802FC01#32] } = true := by decide

/-- V15, V16, V17, V18: the overlaps of R96 and R97, number 31 included in the first and excepted in the second. -/
theorem test_overlaps :
    Instr.dataOverlaps (.stlxr32 31 31 31) = true ∧ Instr.baseOverlaps (.stlxr32 31 31 31) = false
    ∧ Instr.overlapFree (.stlxr32 1 0 1) = false ∧ Instr.overlapFree (.stlxr32 0 0 1) = false
    ∧ Instr.overlapFree (.stlxr64 2 0 0) = true := by decide

/-! ## Part 2: the instructions and the run loop -/

/-- The configuration of the vectors: `Accessible` from 0x1000 to 0x3000, the program at 0x10000. -/
def cfgOf (prog : List Word) : Config :=
  { launchConfig with accessibleRegions := [{ base := 0x1000, len := 0x2000, word := true, doubleword := true }], prog := prog }

/-- A launch state with a program, a monitor, registers and the choice of the free value `storeFails`. -/
def launch (prog : List Word) (mon : Monitor) (fails : Bool) (regs : List (RegNum × DWord)) : State :=
  regs.foldl (fun s r => s.writeX r.1 r.2)
    { State.reset with cfg := cfgOf prog, mon := mon, draw := { storeFails := fails, address := 0x1800, data := 0xC0FFEE } }

/-- The start of 2.2: word V1. -/
def start32 (mon : Monitor) (fails : Bool) : State :=
  launch [0x8802FC01#32] mon fails [(0, 0x1000), (1, 0xAABBCCDD11223344), (2, 0xFFFFFFFFFFFFFFFF)]

/-- The start of 2.3: word V4. -/
def start64 (mon : Monitor) (fails : Bool) : State :=
  launch [0xC803FCA4#32] mon fails [(5, 0x2000), (4, 0x0123456789ABCDEF), (3, 0xDEADBEEFDEADBEEF)]

/-- What a test reads of a next state: the bytes at an address, a register, whether the monitor is open, the pc. -/
def look (o : StepOutcome) (a n : Nat) (r : RegNum) : Option (List Byte × DWord × Bool × DWord) :=
  match o with
  | .next t => some (Memory.readBytes t.mem a n, t.readX r, t.mon == .opened, t.pc)
  | _ => none

/-- X1, Success: the low word is stored, the next four bytes are unchanged, `x[2]` is 0. -/
theorem test_stlxr32_x1_success :
    look (step (start32 (.exclusive 0x1000 4) false)) 0x1000 8 2
      = some ([0x44, 0x33, 0x22, 0x11, 0, 0, 0, 0], 0, true, 0x10004) := by decide

/-- X1, Fail: nothing stored, `x[2]` is 1. -/
theorem test_stlxr32_x1_fail :
    look (step (start32 (.exclusive 0x1000 4) true)) 0x1000 8 2 = some ([0, 0, 0, 0, 0, 0, 0, 0], 1, true, 0x10004) := by
  decide

/-- Y1, Success. -/
theorem test_stlxr64_y1_success :
    look (step (start64 (.exclusive 0x2000 8) false)) 0x2000 9 3
      = some ([0xEF, 0xCD, 0xAB, 0x89, 0x67, 0x45, 0x23, 0x01, 0], 0, true, 0x10004) := by decide

/-- Y2, Success: BIG_ENDIAN. -/
theorem test_stlxr64_y2_big_endian :
    look (step { start64 (.exclusive 0x2000 8) false with cfg := { cfgOf [0xC803FCA4#32] with bigEndian := true } }) 0x2000 8 3
      = some ([0x01, 0x23, 0x45, 0x67, 0x89, 0xAB, 0xCD, 0xEF], 0, true, 0x10004) := by decide

/-- X4, Y3, X5, Y4 and X10 with UNMARKED_STORE_MAY_SUCCEED FALSE: another range and half of the range admit only Fail; a
wider range and its upper half admit Success; outside the range `never` admits no abort. By hand from R29: one byte before the
range and one byte past it are not included. -/
theorem test_marked_range :
    (let c := { cfgOf [] with unmarkedStoreMaySucceed := false, abortWhenMonitorFails := .never }
     admitted c (.exclusive 0x2000 8) 0x1000 .word .success = false
     ∧ admitted c (.exclusive 0x2000 4) 0x2000 .doubleword .success = false
     ∧ admitted c (.exclusive 0x1000 64) 0x1000 .word .success = true
     ∧ admitted c (.exclusive 0x2000 16) 0x2008 .doubleword .success = true
     ∧ admitted c (.exclusive 0x1000 4) 0x4001 .word (.abort .alignment) = false
     ∧ admitted c (.exclusive 0x1000 4) 0x4001 .word .fail = true)
    ∧ Monitor.includes (.exclusive 0x1001 8) 0x1000 4 = false ∧ Monitor.includes (.exclusive 0x1000 8) 0x1005 4 = false
    ∧ Monitor.includes (.exclusive 0x1000 8) 0x1004 4 = true := by decide

/-- The two table words run as the first instruction after reset. -/
theorem test_withFetchWord :
    look (step (State.reset.withFetchWord 32 0x8800FC00)) 0 0 0 = some ([], 1, true, 0x10004)
    ∧ look (step (State.reset.withFetchWord 32 0xC800FC00)) 0 0 0 = some ([], 1, true, 0x10004) := by decide

/-- P6: with nothing placed the launch state of the model is final. -/
theorem test_reset_is_over : step State.reset = .refused .runOver := by rfl

/-! ## Part 3: witnesses -/

/-- An outcome that is a next state. -/
def isNext (o : StepOutcome) : Bool :=
  match o with
  | .next _ => true
  | _ => false

theorem next_of_isNext {o : StepOutcome} (h : isNext o = true) : ∃ t, o = .next t := by
  cases o with
  | next t => exact ⟨t, rfl⟩
  | fault f => cases h
  | refused r => cases h

/-- A state with another configuration. -/
def withCfg (s : State) (f : Config → Config) : State :=
  { s with cfg := f s.cfg }

/-- Z1, Z2: word V10 at a stack pointer. -/
def startSp (sp : DWord) : State :=
  { launch [0x8805FFE6#32] (.exclusive sp 4) false [(6, 0xCAFEF00D), (5, 7)] with sp := sp }

/-- O1 to O4: word V16. -/
def startData (c : Constraint) : State :=
  withCfg (launch [0x8801FC01#32] (.exclusive 0x1000 4) false [(0, 0x1000), (1, 0x55667788)])
    fun k => { k with constrainDataOverlap := c }

/-- O5 to O8: word V17. -/
def startBase (c : Constraint) : State :=
  withCfg (launch [0x8800FC01#32] (.exclusive 0x1000 4) false [(0, 0x1000), (1, 0x11223344)])
    fun k => { k with constrainBaseOverlap := c }

/-- EncodeOfDecodeIsTheWord, DecodesIffFieldsMatchTheDiagram. -/
theorem witness_decoded : ∃ w i, decode w = .instr i := ⟨0x8802FC01#32, _, test_decode_v1⟩

/-- SboViolationIffShouldBeOneBitsBroken. -/
theorem witness_sbo : ∃ w i, decode w = .sboViolation i := ⟨0x88028001#32, _, test_decode_sbo.1⟩

/-- StepRunsTheDecodedInstruction. -/
theorem witness_step_runs : ∃ s : State, s.cfg.haveMte = false ∧ s.outcome = none ∧ s.pc.toNat % 4 = 0
    ∧ s.cfg.base.toNat ≤ s.pc.toNat ∧ s.pc.toNat < s.cfg.base.toNat + 4 * s.cfg.prog.length
    ∧ s.cfg.prog[(s.pc.toNat - s.cfg.base.toNat) / 4]? = some 0x8802FC01#32
    ∧ decode 0x8802FC01#32 = .instr (.stlxr32 2 0 1) :=
  ⟨start32 .opened false, by decide⟩

/-- StepOnShouldBeOneViolation, one state per policy. -/
theorem witness_step_sbo : ∀ p : SboPolicy, ∃ s : State, s.cfg.haveMte = false ∧ s.outcome = none ∧ s.pc.toNat % 4 = 0
    ∧ s.cfg.base.toNat ≤ s.pc.toNat ∧ s.pc.toNat < s.cfg.base.toNat + 4 * s.cfg.prog.length
    ∧ s.cfg.prog[(s.pc.toNat - s.cfg.base.toNat) / 4]? = some 0x88028001#32
    ∧ decode 0x88028001#32 = .sboViolation (.stlxr32 2 0 1) ∧ s.cfg.sboPolicy = p := by
  intro p
  refine ⟨withCfg (launch [0x88028001#32] .opened false []) fun k => { k with sboPolicy := p }, ?_⟩
  cases p <;> decide

/-- StepStopsWhereTheRunLoopSays, clause by clause: tagging; a recorded fault and a recorded refusal. -/
theorem witness_stop_recorded :
    (withCfg (start32 .opened false) fun k => { k with haveMte := true }).cfg.haveMte = true
    ∧ ({ start32 .opened false with outcome := some (.faulted (.undefined 0x10000)) }).outcome
        = some (.faulted (.undefined 0x10000))
    ∧ ({ start32 .opened false with outcome := some (.refused .notInScope) }).outcome = some (.refused .notInScope)
    ∧ (start32 .opened false).cfg.haveMte = false := by decide

/-- The same statement: the end of the text, a misaligned pc, the words just before and just after the text, and the last
word of the text, which is out of scope (P5). -/
theorem witness_stop_fetch :
    (start32 .opened false).outcome = none
    ∧ (({ start32 .opened false with pc := 0x10004 }).pc.toNat = textEnd (start32 .opened false).cfg)
    ∧ (0x10002#64).toNat % 4 ≠ 0 ∧ (0x10002#64).toNat ≠ textEnd (start32 .opened false).cfg
    ∧ (0xFFFC#64).toNat < (start32 .opened false).cfg.base.toNat ∧ (0xFFFC#64).toNat ≠ textEnd (start32 .opened false).cfg
    ∧ textEnd (start32 .opened false).cfg < (0x10008#64).toNat
    ∧ (cfgOf [0x8802FC01#32, 0xD503201F#32]).prog[((0x10004#64).toNat - (0x10000#64).toNat) / 4]? = some 0xD503201F#32
    ∧ decode 0xD503201F#32 = .notInScope := by decide

/-- RecordedOutcomeIsTerminal. -/
theorem witness_terminal : ∃ s : State, s.terminal = true :=
  ⟨{ State.reset with outcome := some (.refused .notInScope) }, by decide⟩

/-- FaultsArePrecise (Z2). -/
theorem witness_fault : ∃ s f, s.outcome = none ∧ step s = .fault f :=
  ⟨startSp 0x2008, .spAlignment 0x10000, by decide, by rfl⟩

/-- ConfigurationIsConstantInARun, RunTakesAtMostOneStepPerWord: the two words of P1. -/
theorem witness_run : ∃ s t : State, s.inv = true ∧ s.pc = s.cfg.base ∧ runSteps 2 s = .next t := by
  obtain ⟨t, h⟩ := next_of_isNext (o := runSteps 2 (launch [0x8802FC01#32, 0x8803FC01#32] (.exclusive 0x1000 4) false
    [(0, 0x1000), (1, 0xAABBCCDD11223344)])) (by decide)
  exact ⟨_, t, by decide, by decide, h⟩

/-- StepKeepsTheRunInvariant. -/
theorem witness_step_inv : ∃ s t : State, s.inv = true ∧ step s = .next t := by
  obtain ⟨t, h⟩ := next_of_isNext (o := step (start32 (.exclusive 0x1000 4) false)) (by decide)
  exact ⟨_, t, by decide, h⟩

/-- P5: a word out of scope. -/
def startOutOfScope : State :=
  launch [0xD503201F#32] .opened false []

/-- RunLoopRecordsHowARunEnds: a next state (P1), a refusal (P5) and the end of the program (P6). -/
theorem witness_run_loop : (∃ s t : State, step s = .next t)
    ∧ (∃ (s : State) (r : Refusal), s.outcome = none ∧ r ≠ .runOver ∧ step s = .refused r)
    ∧ ∃ s : State, s.outcome = none ∧ step s = .refused .runOver := by
  obtain ⟨s, t, -, h⟩ := witness_step_inv
  exact ⟨⟨s, t, h⟩, ⟨startOutOfScope, .notInScope, by decide, by decide, by rfl⟩, State.reset, by decide, by rfl⟩

/-- EveryStepDrawsAfresh, its two clauses: a step, and a run of two steps (P1), with a next state. -/
theorem witness_draws : (∃ s t : State, step s = .next t) ∧ ∃ (k : Nat) (s t : State), 0 < k ∧ runSteps k s = .next t := by
  obtain ⟨s, t, -, h⟩ := witness_step_inv
  obtain ⟨s', t', -, -, h'⟩ := witness_run
  exact ⟨⟨s, t, h⟩, 2, s', t', by decide, h'⟩

/-- StoreAndFailureAreBothReached in its overlap forms: the data overlap and the base overlap under NONE and UNKNOWN, the
UNKNOWN address drawn inside the marked range (O1, O2, O5, O6). -/
theorem witness_overlap_stores :
    (∀ c : Constraint, c = .unknown ∨ c = .none →
      reachesAccess (.stlxr32 1 0 1) (startData c) = true ∧ accessAllowed (.stlxr32 1 0 1) (startData c) = true
      ∧ mayPass (startData c).cfg (startData c).mon (effectiveAddress (.stlxr32 1 0 1) (startData c)) .word = true)
    ∧ ∀ c : Constraint, c = .unknown ∨ c = .none →
      ∃ s : State, s.cfg.constrainBaseOverlap = c ∧ reachesAccess (.stlxr32 0 0 1) s = true
        ∧ accessAllowed (.stlxr32 0 0 1) s = true
        ∧ mayPass s.cfg s.mon (effectiveAddress (.stlxr32 0 0 1) s) .word = true := by
  refine ⟨fun c => by cases c <;> decide, fun c hc => ?_⟩
  refine ⟨{ startBase c with draw := { storeFails := false, address := 0x1000, data := 0 } }, ?_⟩
  revert hc
  cases c <;> decide

/-- Stlxr32Completes, StoreAndFailureAreBothReached (X1). -/
theorem witness_stlxr32_completes : ∃ s : State, reachesAccess (.stlxr32 2 0 1) s = true
    ∧ accessAllowed (.stlxr32 2 0 1) s = true
    ∧ mayPass s.cfg s.mon (effectiveAddress (.stlxr32 2 0 1) s) .word = true :=
  ⟨start32 (.exclusive 0x1000 4) false, by decide⟩

/-- Stlxr64Completes at the last address it can be accessible at (the last eight bytes below 0x3000). -/
theorem witness_stlxr64_completes : ∃ s : State, reachesAccess (.stlxr64 3 5 4) s = true
    ∧ accessAllowed (.stlxr64 3 5 4) s = true ∧ s.readX 5 = 0x2FF8 :=
  ⟨(start64 (.exclusive 0x2000 8) false).writeX 5 0x2FF8, by decide⟩

/-- UnmarkedStoreRules (X4). -/
theorem witness_unmarked : ∃ (c : Config) (mon : Monitor) (a : DWord), mon ≠ .opened
    ∧ Monitor.includes mon a AccessSize.word.dbytes = false ∧ wouldAbort c a .word = false :=
  ⟨cfgOf [], .exclusive 0x2000 8, 0x1000, by decide⟩

/-- MarkedRangeDecidesTheStore: its clauses, inside the range at its last place and outside it (X1, X4, X10, Y3, Y4). -/
theorem witness_marked_range :
    (let c := { cfgOf [] with unmarkedStoreMaySucceed := false, abortWhenMonitorFails := .never }
     c.unmarkedStoreMaySucceed = false ∧ c.abortWhenMonitorFails = .never ∧ wouldAbort c 0x2008 .doubleword = false
     ∧ wouldAbort c 0x1000 .word = false ∧ wouldAbort c 0x4001 .word = true)
    ∧ ∀ m : Monitor, m = .exclusive 0x2000 8 ∨ m = .exclusive 0x2000 4 →
      ∃ s : State, s.mon = m ∧ s.cfg.unmarkedStoreMaySucceed = false ∧ reachesAccess (.stlxr64 3 5 4) s = true
        ∧ accessAllowed (.stlxr64 3 5 4) s = true := by
  refine ⟨by decide, ?_⟩
  rintro m (rfl | rfl)
  · exact ⟨withCfg (start64 (.exclusive 0x2000 8) false) fun k => { k with unmarkedStoreMaySucceed := false }, by decide⟩
  · exact ⟨withCfg (start64 (.exclusive 0x2000 4) false) fun k => { k with unmarkedStoreMaySucceed := false }, by decide⟩

/-- SimulatorReadingIsAdmitted: each of its clauses (X1, X8, X9 with `always`, X3). -/
theorem witness_simulator :
    (Monitor.includes (.exclusive 0x1000 4) 0x1000 4 = true ∧ wouldAbort (cfgOf []) 0x1000 .word = false)
    ∧ (Monitor.includes (.exclusive 0x4000 4) 0x4000 4 = true ∧ wouldAbort (cfgOf []) 0x4000 .word = true)
    ∧ (Monitor.includes .opened 0x4000 4 = false
      ∧ wouldAbort { cfgOf [] with abortWhenMonitorFails := .always } 0x4000 .word = true) := by decide

/-- OpenMonitorNeverStores (X3). -/
theorem witness_open : ∃ s t : State, s.mon = .opened ∧ exec (.stlxr32 2 0 1) s = .next t := by
  obtain ⟨t, h⟩ := next_of_isNext (o := exec (.stlxr32 2 0 1) (start32 .opened false)) (by decide)
  exact ⟨_, t, by decide, h⟩

/-- StatusLeavesMonitorOpen: P1's two instructions in a row. -/
theorem witness_two_in_a_row : ∃ s t u : State, exec (.stlxr32 2 0 1) s = .next t ∧ goesOn (.stlxr32 2 0 1) s = true
    ∧ exec (.stlxr32 3 0 1) t = .next u := by
  have h : isNext (match exec (.stlxr32 2 0 1) (start32 (.exclusive 0x1000 4) false) with
    | .next t => exec (.stlxr32 3 0 1) t
    | o => o) = true := by decide
  obtain ⟨t, ht⟩ := next_of_isNext (o := exec (.stlxr32 2 0 1) (start32 (.exclusive 0x1000 4) false)) (by decide)
  rw [ht] at h
  obtain ⟨u, hu⟩ := next_of_isNext h
  exact ⟨_, t, u, ht, by decide, hu⟩

/-- StatusSaysWhetherMemoryChanged, the frames and StoresAreSingleReleaseWrites: a next state that goes on, with a status
register that is not 31 and an address that the access uses. -/
theorem witness_next : ∃ s t : State, exec (.stlxr64 3 5 4) s = .next t ∧ goesOn (.stlxr64 3 5 4) s = true
    ∧ overlapChecks s.cfg 3 5 4 = .proceed false false ∧ baseAddress s 5 false = .ok 0x2000 := by
  obtain ⟨t, h⟩ := next_of_isNext (o := exec (.stlxr64 3 5 4) (start64 (.exclusive 0x2000 8) false)) (by decide)
  exact ⟨_, t, h, by decide, by decide, by rfl⟩

/-- FrameOfMemory: the clause for a form that ends in its overlap checks (O4). -/
theorem witness_next_nop : ∃ s t : State, exec (.stlxr32 1 0 1) s = .next t
    ∧ overlapChecks s.cfg 1 0 1 = .endOfInstruction := by
  obtain ⟨t, h⟩ := next_of_isNext (o := exec (.stlxr32 1 0 1) (startData .nop)) (by decide)
  exact ⟨_, t, h, by decide⟩

/-- DataOverlapUnderEachConstraint: the four constraints (O1 to O4), the two that go on reaching an access. -/
theorem witness_data_overlap :
    (∀ c : Constraint, (startData c).cfg.haveMte = false ∧ (startData c).cfg.constrainDataOverlap = c)
    ∧ ∀ c : Constraint, c = .unknown ∨ c = .none → reachesAccess (.stlxr32 1 0 1) (startData c) = true
      ∧ accessAllowed (.stlxr32 1 0 1) (startData c) = true := by
  refine ⟨fun c => by cases c <;> decide, fun c => by cases c <;> decide⟩

/-- BaseOverlapUnderEachConstraint: the four constraints (O5 to O8), the drawn address clear of the program text. -/
theorem witness_base_overlap :
    (∀ c : Constraint, (startBase c).cfg.haveMte = false ∧ (startBase c).cfg.constrainBaseOverlap = c)
    ∧ (0 : RegNum) ≠ 31#5 ∧ (0 : RegNum) ≠ 1
    ∧ meetsProgramText (startBase .unknown).cfg (startBase .unknown).draw.address .word = false
    ∧ meetsProgramText (startBase .none).cfg ((startBase .none).readX 0) .word = false := by
  refine ⟨fun c => by cases c <;> decide, by decide, by decide, by decide, by decide⟩

/-- StackPointerBaseIsNoOverlap: `Rs` = `Rn` = 31. -/
theorem witness_sp_no_overlap : ∃ s : State, s.cfg.haveMte = false ∧ (1 : RegNum) ≠ 31#5 ∧ s.sp.toNat % 16 = 0
    ∧ meetsProgramText s.cfg s.sp .word = false ∧ accessible s.cfg s.sp .word = true :=
  ⟨startSp 0x2000, by decide⟩

/-- StackPointerAlignmentCheck: Z2 faults, Z3 (no check) and V1 (another base) do not, 0x2000 passes. -/
theorem witness_sp_check :
    ((startSp 0x2008).cfg.haveMte = false ∧ goesOn (.stlxr32 5 31 6) (startSp 0x2008) = true
      ∧ (startSp 0x2008).cfg.spAlignCheck = true ∧ (startSp 0x2008).sp.toNat % 16 ≠ 0)
    ∧ (withCfg (startSp 0x2008) fun k => { k with spAlignCheck := false }).cfg.spAlignCheck = false
    ∧ (Instr.stlxr32 2 0 1).rn ≠ 31#5 ∧ (startSp 0x2000).sp.toNat % 16 = 0 := by decide

/-- AbortingAddressIsNeverStoredTo: misaligned (X6), inaccessible (X8), `always`, and `never` with the open monitor (X7). -/
theorem witness_aborting :
    (reachesAccess (.stlxr32 2 0 1) ((start32 (.exclusive 0x1000 8) false).writeX 0 0x1002) = true
      ∧ accessAllowed (.stlxr32 2 0 1) ((start32 (.exclusive 0x1000 8) false).writeX 0 0x1002) = false)
    ∧ (reachesAccess (.stlxr32 2 0 1) ((start32 (.exclusive 0x4000 4) false).writeX 0 0x4000) = true
      ∧ accessAllowed (.stlxr32 2 0 1) ((start32 (.exclusive 0x4000 4) false).writeX 0 0x4000) = false)
    ∧ (∀ p : AbortPolicy,
        reachesAccess (.stlxr32 2 0 1)
          (withCfg ((start32 .opened false).writeX 0 0x1002) fun k => { k with abortWhenMonitorFails := p }) = true
        ∧ accessAllowed (.stlxr32 2 0 1)
          (withCfg ((start32 .opened false).writeX 0 0x1002) fun k => { k with abortWhenMonitorFails := p }) = false
        ∧ mayPass (withCfg (start32 .opened false) fun k => { k with abortWhenMonitorFails := p }).cfg .opened 0x1002 .word
          = false) := by
  refine ⟨by decide, by decide, fun p => by cases p <;> decide⟩

/-- X6 to X9 in one: the abort's kind and its address at the instruction. -/
theorem witness_abort_kinds :
    exec (.stlxr32 2 0 1) ((start32 (.exclusive 0x1000 8) false).writeX 0 0x1002)
      = .fault (.dataAbort .alignment 0x1002 0x10000)
    ∧ exec (.stlxr32 2 0 1) ((start32 (.exclusive 0x4000 4) false).writeX 0 0x4000)
      = .fault (.dataAbort .other 0x4000 0x10000) := ⟨by rfl, by rfl⟩

/-- StoreIntoProgramTextIsRefused: the first byte of the text is the last byte of the range (0xFFFD + 3), and the last byte
of the text is its first (O6's interval). -/
theorem witness_text :
    (goesOn (.stlxr32 2 0 1) ((start32 .opened false).writeX 0 0xFFFD) = true
      ∧ spCheckPasses (.stlxr32 2 0 1) ((start32 .opened false).writeX 0 0xFFFD) = true
      ∧ (start32 .opened false).cfg.prog ≠ [] ∧ 0xFFFD ≤ 0x10000 ∧ 0x10000 < 0xFFFD + AccessSize.word.dbytes)
    ∧ meetsProgramText (start32 .opened false).cfg 0xFFFD .word = true
    ∧ meetsProgramText (start32 .opened false).cfg 0x10003 .word = true
    ∧ meetsProgramText (start32 .opened false).cfg 0xFFFC .word = false
    ∧ meetsProgramText (start32 .opened false).cfg 0x10004 .word = false := by decide

/-- ExceptionPriority: each clause's hypotheses (O3, O7, O4, O8, Z4, Q3). -/
theorem witness_priority :
    (Instr.dataOverlaps (.stlxr32 1 0 1) = true ∧ (startData .undef).cfg.constrainDataOverlap = .undef)
    ∧ (Instr.dataOverlaps (.stlxr32 0 0 1) = false ∧ Instr.baseOverlaps (.stlxr32 0 0 1) = true
      ∧ (startBase .undef).cfg.constrainBaseOverlap = .undef ∧ (startBase .nop).cfg.constrainBaseOverlap = .nop)
    ∧ (startData .nop).cfg.constrainDataOverlap = .nop
    ∧ (goesOn (.stlxr32 5 31 6) (startSp 0x2001) = true ∧ spCheckPasses (.stlxr32 5 31 6) (startSp 0x2001) = false)
    ∧ (startSp 0x2001).cfg.haveMte = false := by decide

/-- NarrowStoreIgnoresTheUpperHalf: two values of `x[1]` with the same low half. -/
theorem witness_narrow : ∃ s t : State, (0 : RegNum) ≠ 1
    ∧ (0x0000000011223344#64).setWidth 32 = (s.readX 1).setWidth 32 ∧ exec (.stlxr32 2 0 1) s = .next t
    ∧ goesOn (.stlxr32 2 0 1) s = true := by
  obtain ⟨t, h⟩ := next_of_isNext (o := exec (.stlxr32 2 0 1) (start32 (.exclusive 0x1000 4) false)) (by decide)
  exact ⟨_, t, by decide, by decide, h, by decide⟩

/-- RegisterWriteRules, MemWriteByteOrder, AlignedAccessNeverWraps: their hypotheses, the last at the top of the address
space (X13, Y7). -/
theorem witness_boundaries :
    (30 : RegNum) ≠ 31#5 ∧ (29 : RegNum) ≠ 30 ∧ aligned 0xFFFFFFFFFFFFFFFC .word = true
    ∧ aligned 0xFFFFFFFFFFFFFFF8 .doubleword = true ∧ 3 < AccessSize.word.dbytes := by decide

end Sys2Proof.Machine.Tests
end

section
/-! PROOFS. The statements about the state: what a register write does, that `PSTATE.DIT` is read by no step, that every step
keeps the invariant of a run, and that the marked range decides whether a store may succeed. -/

namespace Sys2Proof.Machine

/-! ### Registers (R22, R23) -/

/-- Settles O40, from the reading rule of a register write. -/
theorem registerWriteRules : Obligations.RegisterWriteRules := by
  intro s i v w
  refine ⟨State.readX_31 s, State.writeX_31 s v, fun hi => ⟨?_, ?_⟩, fun r hr => ?_⟩
  · rw [State.readX_writeX, if_pos ⟨rfl, hi⟩]
  · rw [State.writeW, State.readX_writeX, if_pos ⟨rfl, hi⟩]
  · rw [State.readX_writeX, if_neg fun h => hr h.1]

/-! ### `PSTATE.DIT` (R27, R146) -/

/-- The state with `PSTATE.DIT` changed. -/
def State.withDit (s : State) (d : Bool) : State :=
  { s with dit := d }

/-- The access and its status read no `PSTATE.DIT`, and carry it along. -/
theorem accessAndStatus_withDit (s : State) (d : Bool) (sz : AccessSize) (rs : RegNum) (a v : DWord) :
    accessAndStatus (s.withDit d) sz rs a v = mapNext (State.withDit · d) (accessAndStatus s sz rs a v) := by
  have hcfg : (s.withDit d).cfg = s.cfg := rfl
  have hout : accessOutcome (s.withDit d) a sz = accessOutcome s a sz := rfl
  unfold accessAndStatus
  rw [hcfg, hout]
  split_ifs
  · rfl
  · cases accessOutcome s a sz <;> rfl

/-- The Operation reads no `PSTATE.DIT`: its checks, its address and its data are those of the state as it was. -/
theorem storeReleaseExclusive_withDit (s : State) (d : Bool) (sz : AccessSize) (rs rn rt : RegNum) :
    storeReleaseExclusive (s.withDit d) sz rs rn rt
      = mapNext (State.withDit · d) (storeReleaseExclusive s sz rs rn rt) := by
  have hcfg : (s.withDit d).cfg = s.cfg := rfl
  have haddr : ∀ u, baseAddress (s.withDit d) rn u = baseAddress s rn u := fun _ => rfl
  unfold storeReleaseExclusive
  rw [hcfg]
  split_ifs
  · rfl
  · cases overlapChecks s.cfg rs rn rt with
    | undefined => rfl
    | endOfInstruction => rfl
    | proceed rtUnknown rnUnknown =>
      dsimp only
      rw [haddr]
      cases baseAddress s rn rnUnknown with
      | error e => rfl
      | ok a => exact accessAndStatus_withDit (s.markTagChecked rn) d sz rs a _

/-- Settles O38: what the run loop does next is the same, and so is what the instruction does. -/
theorem ditDoesNotChangeAnyOutcome : Obligations.DitDoesNotChangeAnyOutcome := by
  intro s d
  change step (s.withDit d) = mapNext (State.withDit · d) (step s)
  have hnext : nextAction (s.withDit d) = nextAction s := rfl
  unfold step
  rw [hnext]
  cases nextAction s with
  | execute i =>
    dsimp only
    rw [exec_eq, exec_eq]
    exact storeReleaseExclusive_withDit s d i.size i.rs i.rn i.rt
  | completeOnly => rfl
  | fault f => rfl
  | refuse r => rfl

/-! ### The invariant of a run (R25, R31, R32, R141) -/

/-- The invariant of a run, part by part. -/
theorem State.inv_iff (s : State) : s.inv = true ↔
    Memory.wf s.mem = true ∧ s.cfg.base.toNat % 4 = 0 ∧ textEnd s.cfg < 2 ^ 64 ∧ s.pc.toNat % 4 = 0
      ∧ s.cfg.base.toNat ≤ s.pc.toNat ∧ s.pc.toNat ≤ textEnd s.cfg
      ∧ (s.cfg.haveMte = true ∨ s.tagChecked = none) := by
  simp only [State.inv, Config.wellFormed, Config.baseAligned, Config.textFits, Bool.and_eq_true, Bool.or_eq_true,
    decide_eq_true_eq, beq_iff_eq, Option.isNone_iff_eq_none, and_assoc]
  rfl

/-- An aligned access does not wrap the top of the address space (R63). -/
theorem toNat_add_dbytes_le_of_aligned {a : DWord} {sz : AccessSize} (h : aligned a sz = true) :
    a.toNat + sz.dbytes ≤ 2 ^ 64 := by
  have ha := a.isLt
  simp only [aligned, beq_iff_eq] at h
  rcases dbytes_cases sz with hn | hn <;> rw [hn] at h ⊢ <;> omega

/-- An access that succeeds would not abort (R52). -/
theorem wouldAbort_of_accessOutcome_success {s : State} {a : DWord} {sz : AccessSize}
    (h : accessOutcome s a sz = .success) : wouldAbort s.cfg a sz = false := by
  rw [accessOutcome_eq] at h
  split_ifs at h with ha
  simpa using ha

/-- An access that succeeds is aligned (R44, R52). -/
theorem aligned_of_accessOutcome_success {s : State} {a : DWord} {sz : AccessSize}
    (h : accessOutcome s a sz = .success) : aligned a sz = true := by
  have := wouldAbort_of_accessOutcome_success h
  simp only [wouldAbort, Bool.or_eq_false_iff, Bool.not_eq_false'] at this
  exact this.1

/-- An instruction keeps memory canonical: only a store changes it, and a store is aligned. -/
theorem exec_next_mem_wf {i : Instr} {s t : State} (h : exec i s = .next t) (hwf : Memory.wf s.mem = true) :
    Memory.wf t.mem = true := by
  rw [exec_eq] at h
  obtain ⟨-, ⟨-, rfl⟩ | ⟨_, _, a, -, -, -, ⟨hok, rfl⟩ | ⟨-, rfl⟩⟩⟩ := storeReleaseExclusive_next h
  · exact hwf
  · exact memWrite_wf hwf (toNat_add_dbytes_le_of_aligned (aligned_of_accessOutcome_success hok))
  · exact hwf

/-- An instruction that answers a next state completes, whichever row of R110 it is (R104, R105). -/
theorem exec_next_completes {i : Instr} {s t : State} (h : exec i s = .next t) : Completes i s t := by
  obtain ⟨-, ⟨-, hnop, -, -⟩ | ⟨-, -, ⟨-, -, hst⟩ | hnot⟩⟩ := exec_next_cases h
  · exact hnop.toCompletes
  · exact hst.toCompletes
  · exact hnot.toCompletes

/-- What a step does to the parts of the invariant: `pc` moves to the next word, the configuration and the mark stay, and
memory stays canonical. -/
theorem step_next_effect {s t : State} (h : step s = .next t) :
    t.pc = s.pc + 4 ∧ t.cfg = s.cfg ∧ t.tagChecked = s.tagChecked
      ∧ (Memory.wf s.mem = true → Memory.wf t.mem = true) := by
  obtain ⟨-, -, -, -, -, ⟨i, hexec⟩ | rfl⟩ := step_next h
  · have hc := exec_next_completes hexec
    exact ⟨hc.pc, hc.cfg, hc.tagChecked, exec_next_mem_wf hexec⟩
  · exact ⟨rfl, rfl, rfl, id⟩

/-- The address after a word of a well-formed text is computed without wrapping. -/
theorem toNat_add_four_of_lt_textEnd {s : State} (hbase : s.cfg.base.toNat % 4 = 0) (hend : textEnd s.cfg < 2 ^ 64)
    (hpc : s.pc.toNat % 4 = 0) (hlt : s.pc.toNat < textEnd s.cfg) :
    (s.pc + 4).toNat = s.pc.toNat + 4 ∧ s.pc.toNat + 4 ≤ textEnd s.cfg := by
  have hle : s.pc.toNat + 4 ≤ textEnd s.cfg := by
    unfold textEnd at hlt ⊢
    omega
  exact ⟨BitVec.toNat_add_of_lt (lt_of_le_of_lt hle hend), hle⟩

/-- Settles O15: a step runs at a word inside the text, so the next `pc` is at most the end of the text. -/
theorem stepKeepsTheRunInvariant : Obligations.StepKeepsTheRunInvariant := by
  intro s t hinv hstep
  obtain ⟨hmem, hbase, hend, hpc, hlo, -, htag⟩ := (State.inv_iff s).mp hinv
  obtain ⟨-, -, -, -, hlt, -⟩ := step_next hstep
  obtain ⟨htpc, htcfg, httag, htmem⟩ := step_next_effect hstep
  obtain ⟨hnext, hle⟩ := toNat_add_four_of_lt_textEnd hbase hend hpc hlt
  rw [State.inv_iff, htpc, htcfg, httag, hnext]
  exact ⟨htmem hmem, hbase, hend, by omega, by omega, hle, htag⟩

/-! ### The marked range (R29, R52, R53) -/

/-- A store is an event of its own, so a state that stored is not one that did not (R59). -/
theorem Stored.events_ne {i : Instr} {a v : DWord} {s t : State} (h : Stored i a v s t) : t.events ≠ s.events := by
  simp [h.events]

/-- The effective address reads only the address of the draw (R97, R98). -/
theorem effectiveAddress_withDraw {i : Instr} {s : State} {d : Draw} (h : d.address = s.draw.address) :
    effectiveAddress i { s with draw := d } = effectiveAddress i s := by
  simp only [effectiveAddress, h]
  rfl

/-- Whether the instruction reaches its access depends on the draw through its address alone. -/
theorem reachesAccess_withDraw {i : Instr} {s : State} {d : Draw} (h : d.address = s.draw.address) :
    reachesAccess i { s with draw := d } = reachesAccess i s := by
  simp only [reachesAccess, effectiveAddress_withDraw h]
  rfl

/-- An instruction that reaches an access it may make stores, if the monitor may pass and the draw does not say Fail. -/
theorem exec_stores_of_mayPass {i : Instr} {s : State} (hr : reachesAccess i s = true) (ha : accessAllowed i s = true)
    (hp : mayPass s.cfg s.mon (effectiveAddress i s) i.size = true) (hd : s.draw.storeFails = false) :
    ∃ t, exec i s = .next t ∧ Stored i (effectiveAddress i s) (effectiveData i s) s t := by
  have hm := haveMte_of_reachesAccess hr
  have hout : accessOutcome s (effectiveAddress i s) i.size = .success := by
    rw [accessOutcome_eq, wouldAbort_eq, if_neg (by simp [ha]), if_pos ⟨hp, hd⟩]
  obtain ⟨-, he⟩ | ⟨hn, -⟩ | ⟨hn, -⟩ | ⟨hn, -⟩ | ⟨hn, -⟩ := exec_cases i s hm
  · rw [hout] at he
    exact ⟨_, he, stored_is_Stored i s _ _ hm⟩
  all_goals simp [hr] at hn

/-- An instruction that stored did so where the monitor may pass. -/
theorem mayPass_of_exec_stored {i : Instr} {s t : State} {a v : DWord} (h : exec i s = .next t)
    (hst : Stored i a v s t) : mayPass s.cfg s.mon (effectiveAddress i s) i.size = true := by
  obtain ⟨-, ⟨-, hnop, -, -⟩ | ⟨-, -, ⟨-, hp, -⟩ | hnot⟩⟩ := exec_next_cases h
  · exact absurd hnop.events hst.events_ne
  · exact hp
  · exact absurd hnot.events hst.events_ne

/-- Over the draws with this UNKNOWN address and data, an instruction that may make its access stores under some draw exactly
where the monitor may pass (R52). -/
theorem exists_draw_stores_iff_mayPass {i : Instr} {s : State} (hr : reachesAccess i s = true)
    (ha : accessAllowed i s = true) :
    (∃ d t, d.address = s.draw.address ∧ d.data = s.draw.data ∧ exec i { s with draw := d } = .next t
        ∧ Stored i (effectiveAddress i { s with draw := d }) (effectiveData i { s with draw := d }) { s with draw := d } t)
      ↔ mayPass s.cfg s.mon (effectiveAddress i s) i.size = true := by
  constructor
  · rintro ⟨d, t, hd, -, he, hst⟩
    have hp := mayPass_of_exec_stored he hst
    rwa [effectiveAddress_withDraw hd] at hp
  · intro hp
    obtain ⟨t, he, hst⟩ := exec_stores_of_mayPass (i := i) (s := { s with draw := { s.draw with storeFails := false } })
      ((reachesAccess_withDraw rfl).trans hr) ha hp rfl
    exact ⟨{ s.draw with storeFails := false }, t, rfl, rfl, he, hst⟩

/-- The deterministic reading succeeds exactly in the marked range, where nothing would abort (R52). -/
theorem simulatorOutcome_success_iff {c : Config} {mon : Monitor} {a : DWord} {sz : AccessSize}
    (h : wouldAbort c a sz = false) :
    simulatorOutcome c mon a sz = .success ↔ Monitor.includes mon a sz.dbytes = true := by
  unfold simulatorOutcome
  split_ifs with hin hab
  · simp [hin, otherOutcome, h]
  · simp [h] at hab
  · simp [hin]

/-- Settles O45: each of its tests is the test of the monitor's range. -/
theorem markedRangeDecidesTheStore : Obligations.MarkedRangeDecidesTheStore := by
  refine ⟨fun c base len a sz => ⟨fun hu hw => ?_, fun hu hw hn => ?_, fun hw => ?_⟩,
    fun i s base len hmon hu hr ha => ?_⟩
  · rw [← includes_exclusive_iff, ← mayPass_eq_includes hu]
    simp [admitted, hw]
  · rw [← includes_exclusive_iff, ← mayPass_eq_includes hu]
    simp [admitted, hw, hn]
  · rw [simulatorOutcome_success_iff hw, includes_exclusive_iff]
  · rw [exists_draw_stores_iff_mayPass hr ha, mayPass_eq_includes hu, hmon, includes_exclusive_iff]

end Sys2Proof.Machine
end

section
/-! PROOFS. The statements about memory: what a write leaves in it, which outcomes an access may take, what an instruction
does at the text, at the stack pointer and at an address that would abort, and when and where it stores. -/

namespace Sys2Proof.Machine

/-! ### Writing memory (R43, R63) -/

/-- A byte inside the range of a memory write is the byte of the value the byte order puts there. -/
theorem read_memWrite_inside (be : Bool) (m : Memory) (a : DWord) {n k : Nat} (v : DWord) (hk : k < n) :
    Memory.read (memWrite be m a n v) (a.toNat + k) = byteOf v (if be then n - 1 - k else k) := by
  rw [memWrite, Memory.read_writeBytes_inside _ _ _ _ (by simpa using hk)]
  simp [bytesInMemory]

/-- A byte outside the range of a memory write reads as before. -/
theorem read_memWrite_outside (be : Bool) (m : Memory) (a : DWord) {n b : Nat} (v : DWord)
    (hb : b < a.toNat ∨ a.toNat + n ≤ b) : Memory.read (memWrite be m a n v) b = Memory.read m b :=
  Memory.read_writeBytes_outside _ _ _ _ (by simpa using hb)

/-- Settles O41, by the rules for a read inside and outside the bytes written. -/
theorem memWriteByteOrder : Obligations.MemWriteByteOrder :=
  fun be m a _ v => ⟨fun _ hk => read_memWrite_inside be m a v hk, fun _ hb => read_memWrite_outside be m a v hb⟩

/-- Settles O42: both sizes divide 2 to the 64, so the last aligned address leaves room for the access. -/
theorem alignedAccessNeverWraps : Obligations.AlignedAccessNeverWraps :=
  fun _ _ h => toNat_add_dbytes_le_of_aligned h

/-! ### The outcomes R52 admits -/

/-- R52 admits nothing but Fail and the one other outcome of the address. -/
theorem eq_fail_or_otherOutcome_of_admitted {c : Config} {mon : Monitor} {a : DWord} {sz : AccessSize}
    {o : AccessOutcome} (h : admitted c mon a sz o = true) : o = .fail ∨ o = otherOutcome c a sz := by
  cases o with
  | fail => exact .inl rfl
  | success =>
    simp only [admitted, Bool.and_eq_true, Bool.not_eq_true'] at h
    exact .inr (by simp [otherOutcome, h.2])
  | abort kind =>
    simp only [admitted, Bool.and_eq_true, beq_iff_eq] at h
    obtain ⟨⟨rfl, hw⟩, -⟩ := h
    exact .inr (by simp [otherOutcome, hw])

theorem otherOutcome_ne_fail (c : Config) (a : DWord) (sz : AccessSize) : otherOutcome c a sz ≠ .fail := by
  unfold otherOutcome
  split_ifs <;> simp

/-- The failure is admitted unless the address would abort and aborts are always reported (R45, R52). -/
theorem admitted_fail_iff (c : Config) (mon : Monitor) (a : DWord) (sz : AccessSize) :
    admitted c mon a sz .fail = true ↔ ¬(wouldAbort c a sz = true ∧ c.abortWhenMonitorFails = .always) := by
  simp only [admitted, Bool.or_eq_true, Bool.not_eq_true', bne_iff_ne, not_and_or, Bool.not_eq_true]

/-- The other outcome is admitted where the monitor may pass, and as an abort unless aborts wait for the monitor (R45, R52). -/
theorem admitted_otherOutcome_iff (c : Config) (mon : Monitor) (a : DWord) (sz : AccessSize) :
    admitted c mon a sz (otherOutcome c a sz) = true
      ↔ mayPass c mon a sz = true ∨ (wouldAbort c a sz = true ∧ c.abortWhenMonitorFails ≠ .never) := by
  cases hw : wouldAbort c a sz <;> simp [otherOutcome, admitted, hw]

/-- R52's table is never empty: where Fail is not admitted, the abort is. -/
theorem admitted_otherOutcome_of_not_fail {c : Config} {mon : Monitor} {a : DWord} {sz : AccessSize}
    (h : admitted c mon a sz .fail = false) : admitted c mon a sz (otherOutcome c a sz) = true := by
  have hf : ¬admitted c mon a sz .fail = true := by simp [h]
  rw [admitted_fail_iff, not_not] at hf
  exact (admitted_otherOutcome_iff c mon a sz).mpr (.inr ⟨hf.1, by simp [hf.2]⟩)

/-- The access takes an admitted outcome, whatever the free value is. -/
theorem admitted_accessOutcome (s : State) (a : DWord) (sz : AccessSize) :
    admitted s.cfg s.mon a sz (accessOutcome s a sz) = true := by
  unfold accessOutcome
  split_ifs with h
  · exact ((Bool.and_eq_true _ _).mp h).1
  · cases hf : admitted s.cfg s.mon a sz .fail with
    | false => exact admitted_otherOutcome_of_not_fail hf
    | true =>
      simp only [hf, Bool.true_and, Bool.or_eq_true, Bool.not_eq_true', not_or, Bool.not_eq_false] at h
      exact h.1

/-- Where Fail is admitted, the free value `storeFails` makes the access take it. -/
theorem accessOutcome_eq_fail {s : State} {a : DWord} {sz : AccessSize} (h : admitted s.cfg s.mon a sz .fail = true)
    (hd : s.draw.storeFails = true) : accessOutcome s a sz = .fail := by
  simp [accessOutcome, h, hd]

/-- Where the other outcome is admitted, the free value without `storeFails` makes the access take it. -/
theorem accessOutcome_eq_otherOutcome {s : State} {a : DWord} {sz : AccessSize}
    (h : admitted s.cfg s.mon a sz (otherOutcome s.cfg a sz) = true) (hd : s.draw.storeFails = false) :
    accessOutcome s a sz = otherOutcome s.cfg a sz := by
  simp [accessOutcome, h, hd]

/-- Settles O19: of the two outcomes that can be admitted, the free value chooses. -/
theorem accessTakesExactlyTheAdmittedOutcomes : Obligations.AccessTakesExactlyTheAdmittedOutcomes := by
  refine fun s a sz => ⟨fun o => ⟨fun h => ?_, ?_⟩, _, admitted_accessOutcome s a sz⟩
  · obtain rfl | rfl := eq_fail_or_otherOutcome_of_admitted h
    · exact ⟨{ s.draw with storeFails := true }, accessOutcome_eq_fail h rfl⟩
    · exact ⟨{ s.draw with storeFails := false }, accessOutcome_eq_otherOutcome h rfl⟩
  · rintro ⟨d, rfl⟩
    exact admitted_accessOutcome { s with draw := d } a sz

/-- A monitor that includes the access may pass (R52). -/
theorem mayPass_of_includes {c : Config} {mon : Monitor} {a : DWord} {sz : AccessSize}
    (h : Monitor.includes mon a sz.dbytes = true) : mayPass c mon a sz = true := by
  simp [mayPass, h]

/-- The deterministic reading where the monitor includes the access. -/
theorem simulatorOutcome_of_includes {c : Config} {mon : Monitor} {a : DWord} {sz : AccessSize}
    (h : Monitor.includes mon a sz.dbytes = true) : simulatorOutcome c mon a sz = otherOutcome c a sz :=
  if_pos h

/-- The deterministic reading where the monitor does not include the access. -/
theorem simulatorOutcome_of_not_includes {c : Config} {mon : Monitor} {a : DWord} {sz : AccessSize}
    (h : Monitor.includes mon a sz.dbytes = false) : simulatorOutcome c mon a sz =
      if wouldAbort c a sz = true ∧ c.abortWhenMonitorFails = .always then .abort (abortKind a sz) else .fail := by
  simp [simulatorOutcome, h]

/-- The deterministic reading is admitted: a monitor that includes the access may pass, and elsewhere the reading is Fail
unless Fail is not admitted. -/
theorem admitted_simulatorOutcome (c : Config) (mon : Monitor) (a : DWord) (sz : AccessSize) :
    admitted c mon a sz (simulatorOutcome c mon a sz) = true := by
  cases hin : Monitor.includes mon a sz.dbytes with
  | true =>
    rw [simulatorOutcome_of_includes hin, admitted_otherOutcome_iff]
    exact .inl (mayPass_of_includes hin)
  | false =>
    rw [simulatorOutcome_of_not_includes hin]
    split_ifs with hab
    · simp [admitted, hab]
    · exact (admitted_fail_iff c mon a sz).mpr hab

/-- Settles O20, reading by reading. -/
theorem simulatorReadingIsAdmitted : Obligations.SimulatorReadingIsAdmitted := by
  refine fun c mon a sz => ⟨admitted_simulatorOutcome c mon a sz, fun hin hw => ?_, fun hin hw => ?_,
    fun hin => ⟨fun hab => ?_, fun hab => ?_⟩⟩
  · simp [simulatorOutcome_of_includes hin, otherOutcome, hw]
  · simp [simulatorOutcome_of_includes hin, otherOutcome, hw]
  · rw [simulatorOutcome_of_not_includes hin, if_pos hab]
  · rw [simulatorOutcome_of_not_includes hin, if_neg hab]

/-- Settles O22: with no abort the success is the monitor's choice alone, and the open monitor never passes. -/
theorem unmarkedStoreRules : Obligations.UnmarkedStoreRules := by
  refine fun c mon a sz => ⟨fun hmon hin hw => ⟨?_, ?_⟩, ?_⟩
  · simp [admitted_fail_iff, hw]
  · simp [admitted, mayPass, hmon, hin, hw]
  · rintro rfl
    simp [admitted, mayPass_opened]

/-! ### What the instruction answers, by where it gets to (R90, R91, R110) -/

/-- What an instruction answers to each outcome of its access (R52, R110). -/
def accessAnswer (i : Instr) (s : State) : AccessOutcome → StepOutcome
  | .success => .next (State.stored (s.markTagChecked i.rn) i.size i.rs (effectiveAddress i s) (effectiveData i s))
  | .fail => .next (State.notStored (s.markTagChecked i.rn) i.rs)
  | .abort kind => .fault (.dataAbort kind (effectiveAddress i s) s.pc)

/-- An instruction that reaches its access answers what the access says. -/
theorem exec_of_reachesAccess {i : Instr} {s : State} (hr : reachesAccess i s = true) :
    exec i s = accessAnswer i s (accessOutcome s (effectiveAddress i s) i.size) := by
  obtain ⟨-, he⟩ | ⟨hn, -⟩ | ⟨hn, -⟩ | ⟨hn, -⟩ | ⟨hn, -⟩ := exec_cases i s (haveMte_of_reachesAccess hr)
  · rw [he]
    cases accessOutcome s (effectiveAddress i s) i.size <;> rfl
  all_goals simp [hr] at hn

/-- An instruction whose access fails completes without storing. -/
theorem exec_notStored_of_fail {i : Instr} {s : State} (hr : reachesAccess i s = true)
    (h : accessOutcome s (effectiveAddress i s) i.size = .fail) : ∃ t, exec i s = .next t ∧ NotStored i s t := by
  rw [exec_of_reachesAccess hr, h]
  exact ⟨_, rfl, notStored_is_NotStored i s (haveMte_of_reachesAccess hr)⟩

/-- An instruction whose access may not be made and does not fail takes the abort (R52). -/
theorem exec_dataAbort_of_ne_fail {i : Instr} {s : State} (hr : reachesAccess i s = true)
    (ha : accessAllowed i s = false) (h : accessOutcome s (effectiveAddress i s) i.size ≠ .fail) :
    exec i s = .fault (.dataAbort (abortKind (effectiveAddress i s) i.size) (effectiveAddress i s) s.pc) := by
  have hother : otherOutcome s.cfg (effectiveAddress i s) i.size
      = .abort (abortKind (effectiveAddress i s) i.size) := by simp [otherOutcome, wouldAbort_eq, ha]
  rw [exec_of_reachesAccess hr,
    (eq_fail_or_otherOutcome_of_admitted (admitted_accessOutcome s _ _)).resolve_left h, hother]
  rfl

/-- An instruction that goes past its checks into the program text is refused (R61). -/
theorem exec_of_meetsProgramText {i : Instr} {s : State} (hm : s.cfg.haveMte = false) (hg : goesOn i s = true)
    (hs : spCheckPasses i s = true) (hp : meetsProgramText s.cfg (effectiveAddress i s) i.size = true) :
    exec i s = .refused .storeIntoProgramText := by
  obtain ⟨hn, -⟩ | ⟨-, -, -, -, he⟩ | ⟨-, -, hn, -⟩ | ⟨-, hn, -⟩ | ⟨-, hn, -⟩ := exec_cases i s hm
  · simp [reachesAccess, hp] at hn
  · exact he
  · simp [hs] at hn
  all_goals simp [hg] at hn

/-- An instruction that goes on to a stack pointer that fails its check faults there (R46). -/
theorem exec_of_spCheck_fails {i : Instr} {s : State} (hm : s.cfg.haveMte = false) (hg : goesOn i s = true)
    (hs : spCheckPasses i s = false) : exec i s = .fault (.spAlignment s.pc) := by
  obtain ⟨hn, -⟩ | ⟨-, -, hn, -⟩ | ⟨-, -, -, he⟩ | ⟨-, hn, -⟩ | ⟨-, hn, -⟩ := exec_cases i s hm
  · simp [reachesAccess, hs] at hn
  · simp [hs] at hn
  · exact he
  all_goals simp [hg] at hn

/-- Only the check of the stack pointer raises the stack pointer fault. -/
theorem spCheck_fails_of_exec {i : Instr} {s : State} {pc : DWord} (h : exec i s = .fault (.spAlignment pc)) :
    spCheckPasses i s = false := by
  cases hm : s.cfg.haveMte with
  | true => simp [exec_of_haveMte i s hm] at h
  | false =>
    obtain ⟨hr, -⟩ | ⟨-, -, -, -, he⟩ | ⟨-, -, hs, -⟩ | ⟨-, -, he, -⟩ | ⟨-, -, he, -⟩ := exec_cases i s hm
    · rw [exec_of_reachesAccess hr] at h
      cases hout : accessOutcome s (effectiveAddress i s) i.size <;> simp [hout, accessAnswer] at h
    · simp [he] at h
    · exact hs
    all_goals simp [he] at h

/-- An instruction that goes on and completes has reached its access, and stored or did not. -/
theorem exec_next_of_goesOn {i : Instr} {s t : State} (h : exec i s = .next t) (hg : goesOn i s = true) :
    reachesAccess i s = true ∧ (Stored i (effectiveAddress i s) (effectiveData i s) s t ∨ NotStored i s t) := by
  obtain ⟨-, ⟨hn, -⟩ | ⟨-, hr, ⟨-, -, hst⟩ | hnot⟩⟩ := exec_next_cases h
  · simp [hg] at hn
  · exact ⟨hr, .inl hst⟩
  · exact ⟨hr, .inr hnot⟩

/-! ### The store and the failure (R50, R53, R54) -/

/-- Settles O21: the draw without `storeFails` stores where the monitor may pass, and the draw with it does not store. -/
theorem storeAndFailureAreBothReached : Obligations.StoreAndFailureAreBothReached := by
  refine fun i s hr ha => ⟨(exists_draw_stores_iff_mayPass hr ha).mpr, ?_⟩
  have hfail : admitted s.cfg s.mon (effectiveAddress i s) i.size .fail = true := by
    simp [admitted_fail_iff, wouldAbort_eq, ha]
  obtain ⟨t, he, hnot⟩ := exec_notStored_of_fail (i := i) (s := { s with draw := { s.draw with storeFails := true } })
    ((reachesAccess_withDraw rfl).trans hr) (accessOutcome_eq_fail hfail rfl)
  exact ⟨{ s.draw with storeFails := true }, t, rfl, rfl, he, hnot⟩

/-- Settles O23: the open monitor may not pass, and no other form stores. -/
theorem openMonitorNeverStores : Obligations.OpenMonitorNeverStores := by
  intro i s t hmon he
  obtain ⟨-, ⟨-, hnop, -, -⟩ | ⟨-, -, ⟨-, hp, -⟩ | hnot⟩⟩ := exec_next_cases he
  · exact ⟨hnop.mem, hnop.events⟩
  · simp [hmon, mayPass_opened] at hp
  · exact ⟨hnot.mem, hnot.events⟩

/-- Settles O24: both rows with a status leave the monitor open, from where nothing stores. -/
theorem statusLeavesMonitorOpen : Obligations.StatusLeavesMonitorOpen := by
  intro i j s t he hg
  have hmon : t.mon = .opened := by
    obtain ⟨-, hst | hnot⟩ := exec_next_of_goesOn he hg
    · exact hst.mon
    · exact hnot.mon
  exact ⟨hmon, fun u => openMonitorNeverStores j t u hmon⟩

/-- Settles O25: the status of each row, readable since Rs is not 31. -/
theorem statusSaysWhetherMemoryChanged : Obligations.StatusSaysWhetherMemoryChanged := by
  intro i s t he hg hrs
  obtain ⟨-, hst | hnot⟩ := exec_next_of_goesOn he hg
  · exact .inl ⟨hst.status, hst⟩
  · exact .inr ⟨hnot.status.trans (if_neg hrs), hnot⟩

/-! ### Faults and refusals of the access (R44 to R47, R61) -/

/-- The check of the stack pointer fails exactly on a base that is the stack pointer, with the check on and no multiple of 16
in it. -/
theorem spCheckPasses_eq_false_iff (i : Instr) (s : State) : spCheckPasses i s = false
    ↔ i.rn = 31#5 ∧ s.cfg.spAlignCheck = true ∧ s.sp.toNat % 16 ≠ 0 := by
  simp [spCheckPasses, and_assoc]

/-- Both access sizes divide 16. -/
theorem aligned_of_mod_sixteen {a : DWord} (h : a.toNat % 16 = 0) (sz : AccessSize) : aligned a sz = true := by
  rw [aligned, beq_iff_eq]
  obtain hn | hn := dbytes_cases sz <;> rw [hn] <;> omega

/-- Settles O29: the fault is raised exactly by the check, and both sizes divide 16. -/
theorem stackPointerAlignmentCheck : Obligations.StackPointerAlignmentCheck := by
  refine fun i s => ⟨fun hm hg hrn hon hsp => ?_, fun hoff pc he => ?_,
    fun hsp => ⟨aligned_of_mod_sixteen hsp _, aligned_of_mod_sixteen hsp _⟩⟩
  · exact exec_of_spCheck_fails hm hg ((spCheckPasses_eq_false_iff i s).mpr ⟨hrn, hon, hsp⟩)
  · obtain ⟨hrn, hon, -⟩ := (spCheckPasses_eq_false_iff i s).mp (spCheck_fails_of_exec he)
    simp [hrn, hon] at hoff

/-- The kind of the abort, by the address (R52). -/
theorem abortKind_eq (a : DWord) (sz : AccessSize) :
    abortKind a sz = if a.toNat % sz.dbytes = 0 then .other else .alignment := by
  simp [abortKind, aligned]

/-- Settles O30: at such an address R52 admits the failure or the abort, `always` rules out the failure, and `never` with a
monitor that cannot pass rules out the abort. -/
theorem abortingAddressIsNeverStoredTo : Obligations.AbortingAddressIsNeverStoredTo := by
  intro i s hr ha
  have hw : wouldAbort s.cfg (effectiveAddress i s) i.size = true := by simp [wouldAbort_eq, ha]
  have hadm := admitted_accessOutcome s (effectiveAddress i s) i.size
  rw [← abortKind_eq]
  refine ⟨?_, fun halways => ?_, fun hnever hp => ?_⟩
  · by_cases hf : accessOutcome s (effectiveAddress i s) i.size = .fail
    · exact .inr (exec_notStored_of_fail hr hf)
    · exact .inl (exec_dataAbort_of_ne_fail hr ha hf)
  · refine exec_dataAbort_of_ne_fail hr ha fun hf => ?_
    rw [hf, admitted_fail_iff] at hadm
    exact hadm ⟨hw, halways⟩
  · refine exec_notStored_of_fail hr ((eq_fail_or_otherOutcome_of_admitted hadm).resolve_right fun ho => ?_)
    rw [ho, admitted_otherOutcome_iff] at hadm
    simp [hp, hnever] at hadm

/-- The range of an access that shares a byte with a nonempty program text meets it (R61). -/
theorem meetsProgramText_of_common_byte {c : Config} {a : DWord} {sz : AccessSize} {b : Nat} (hprog : c.prog ≠ [])
    (hlo : a.toNat ≤ b) (hhi : b < a.toNat + sz.dbytes) (hbase : c.base.toNat ≤ b)
    (hend : b < c.base.toNat + 4 * c.prog.length) : meetsProgramText c a sz = true := by
  simp only [meetsProgramText, Bool.and_eq_true, Bool.not_eq_true', decide_eq_true_eq, List.isEmpty_eq_false_iff]
  exact ⟨⟨hprog, by omega⟩, by omega⟩

/-- Settles O31: the common byte makes the range meet the text, and the test of the text comes before the monitor. -/
theorem storeIntoProgramTextIsRefused : Obligations.StoreIntoProgramTextIsRefused := by
  rintro i s hm hg hs hprog ⟨b, hlo, hhi, hbase, hend⟩
  exact exec_of_meetsProgramText hm hg hs (meetsProgramText_of_common_byte hprog hlo hhi hbase hend)

/-! ### What is written, and what is not (R40, R41, R59, R105) -/

/-- Settles O36: only the store of an instruction past its checks writes memory, and only in its range. -/
theorem frameOfMemory : Obligations.FrameOfMemory := by
  intro i s t he
  rw [exec_eq] at he
  obtain ⟨-, ⟨-, rfl⟩ | ⟨_, u, a, ho, ha, -, hcase⟩⟩ := storeReleaseExclusive_next he
  · exact ⟨fun _ _ _ _ _ _ _ => rfl, fun _ _ => rfl⟩
  · refine ⟨fun _ u' a' ho' ha' b hb => ?_, fun hend => by simp [ho] at hend⟩
    obtain ⟨-, rfl⟩ : _ ∧ u = u' := by simpa [ho] using ho'
    obtain rfl : a = a' := by simpa [ha] using ha'
    obtain ⟨-, rfl⟩ | ⟨-, rfl⟩ := hcase
    · exact read_memWrite_outside _ _ _ _ hb
    · rfl

/-- Settles O37: the one row that writes is the row "stored", and its access may be made, so it is aligned. -/
theorem storesAreSingleReleaseWrites : Obligations.StoresAreSingleReleaseWrites := by
  intro i s t he
  obtain ⟨-, ⟨-, hnop, -, -⟩ | ⟨-, -, ⟨ha, -, hst⟩ | hnot⟩⟩ := exec_next_cases he
  · exact .inl ⟨hnop.events, hnop.mem⟩
  · simp only [accessAllowed, Bool.and_eq_true, beq_iff_eq] at ha
    exact .inr ⟨_, hst.events, rfl, rfl, ha.1⟩
  · exact .inl ⟨hnot.events, hnot.mem⟩

section
variable {i : Instr} {s : State} {v : DWord} (hb : i.rn ≠ i.rt ∨ i.rt = 31#5)
include hb

/-- A write to the data register, where it is not the base too, leaves the address as it was. -/
theorem effectiveAddress_writeX_rt : effectiveAddress i (s.writeX i.rt v) = effectiveAddress i s := by
  have hread : (s.writeX i.rt v).readX i.rn = s.readX i.rn := by
    rw [State.readX_writeX, if_neg (by tauto)]
  simp only [effectiveAddress, hread]
  rfl

/-- A write to the data register, where it is not the base too, leaves the instruction reaching its access. -/
theorem reachesAccess_writeX_rt : reachesAccess i (s.writeX i.rt v) = reachesAccess i s := by
  simp only [reachesAccess, effectiveAddress_writeX_rt hb]
  rfl

end

/-- The data of the 32-bit variant depends on the low half of the data register alone (R41). -/
theorem effectiveData_writeX_rt {i : Instr} {s : State} {v : DWord} (hsz : i.size = .word)
    (hv : v.setWidth 32 = (s.readX i.rt).setWidth 32) :
    effectiveData i (s.writeX i.rt v) = effectiveData i s := by
  have hread : ((s.writeX i.rt v).readX i.rt).setWidth 32 = (s.readX i.rt).setWidth 32 := by
    rw [State.readX_writeX]
    split_ifs
    · exact hv
    · rfl
  rw [effectiveData, effectiveData, hsz, State.writeX_cfg, State.writeX_draw]
  split_ifs
  · rfl
  · simp only [truncateTo, hread]

/-- The 32-bit variant with another upper half in its data register: the same outcome of the access, at the same address,
with the same data. -/
theorem exec_next_writeX_rt {i : Instr} {s t : State} {v : DWord} (hsz : i.size = .word)
    (hb : i.rn ≠ i.rt ∨ i.rt = 31#5) (hv : v.setWidth 32 = (s.readX i.rt).setWidth 32) (he : exec i s = .next t)
    (hr : reachesAccess i s = true) :
    ∃ u, exec i (s.writeX i.rt v) = .next u ∧ u.mem = t.mem ∧ u.mon = t.mon ∧ u.events = t.events
      ∧ u.readX i.rs = t.readX i.rs := by
  have hm := haveMte_of_reachesAccess hr
  have hout : accessOutcome (s.writeX i.rt v) (effectiveAddress i s) i.size
      = accessOutcome s (effectiveAddress i s) i.size := rfl
  rw [exec_of_reachesAccess hr] at he
  rw [exec_of_reachesAccess ((reachesAccess_writeX_rt hb).trans hr), effectiveAddress_writeX_rt hb, hout]
  cases ho : accessOutcome s (effectiveAddress i s) i.size with
  | success =>
    simp only [ho, accessAnswer, Host.Outcome.next.injEq] at he
    simp only [accessAnswer, effectiveAddress_writeX_rt hb, effectiveData_writeX_rt hsz hv]
    subst he
    exact ⟨_, rfl, rfl, rfl, rfl,
      (stored_is_Stored i (s.writeX i.rt v) _ _ hm).status.trans (stored_is_Stored i s _ _ hm).status.symm⟩
  | fail =>
    simp only [ho, accessAnswer, Host.Outcome.next.injEq] at he
    subst he
    exact ⟨_, rfl, rfl, rfl, rfl,
      (notStored_is_NotStored i (s.writeX i.rt v) hm).status.trans (notStored_is_NotStored i s hm).status.symm⟩
  | abort kind => simp [ho, accessAnswer] at he

/-- Settles O39: past its overlap checks the instruction has reached its access, which the upper half does not change. -/
theorem narrowStoreIgnoresTheUpperHalf : Obligations.NarrowStoreIgnoresTheUpperHalf :=
  fun rs rn rt _ _ _ hb hv he hg =>
    exec_next_writeX_rt (i := .stlxr32 rs rn rt) rfl hb hv he (exec_next_of_goesOn he hg).1

end Sys2Proof.Machine
end

section
/-! PROOFS. The statements about the encoding: the fixed bits the decoder tests as fields of the word, the decoder and the
encoder as inverses of each other, the assembler's round trip, and a should-be-one violation under each policy. -/

namespace Sys2Proof

/-! ### The fixed bits as fields (R74, R75, R77) -/

/-- A field of the word splits into its top bit and the field below it. -/
theorem extractLsb'_succ_eq_cons_iff (w : Word) (start len : Nat) (b : Bool) (v : BitVec len) :
    w.extractLsb' start (len + 1) = BitVec.cons b v ↔ w.getLsbD (start + len) = b ∧ w.extractLsb' start len = v := by
  have hsplit : w.extractLsb' start (len + 1) = BitVec.cons (w.getLsbD (start + len)) (w.extractLsb' start len) := by
    ext k hk
    by_cases h : k = len <;> simp [BitVec.getElem_cons, h]
  rw [hsplit]
  constructor
  · intro h
    exact ⟨by simpa using congrArg BitVec.msb h, by simpa using congrArg (BitVec.extractLsb' 0 len) h⟩
  · rintro ⟨rfl, rfl⟩
    rfl

/-- R77's tests for an STLXR of one size: its should-be-one test, with bits 14:10 all ones and bit 30 the size's (R75). -/
theorem size_fields_iff (w : Word) (sz : AccessSize) :
    (w.extractLsb' 21 11 = sz.field ++ 0b001000000#9 ∧ w.extractLsb' 10 6 = 0b111111#6)
      ↔ (w &&& 0xBFE08000#32 = 0x88008000#32 ∧ w.extractLsb' 10 5 = 0b11111#5)
        ∧ w.getLsbD 30 = (sz == .doubleword) := by
  have hhigh : sz.field ++ 0b001000000#9 = BitVec.cons true (BitVec.cons (sz == .doubleword) 0b001000000#9) := by
    cases sz <;> decide
  have hlow : 0b111111#6 = BitVec.cons true 0b11111#5 := by decide
  rw [and_mask_eq_sbo_iff, hhigh, hlow]
  simp only [extractLsb'_succ_eq_cons_iff]
  tauto

/-! ### What the decoder answers -/

/-- The decoder of R77 as two tests: the fixed bits but for bits 14:10, and bits 14:10. -/
theorem decode_eq (w : Word) : decode w =
    if w &&& 0xBFE08000#32 = 0x88008000#32 then
      if w.extractLsb' 10 5 = 0b11111#5 then .instr (instrOfFields w) else .sboViolation (instrOfFields w)
    else .notInScope := by
  have h32 := (and_mask_eq_match32_iff w).trans (size_fields_iff w .word)
  have h64 := (and_mask_eq_match64_iff w).trans (size_fields_iff w .doubleword)
  simp only [decode, beq_iff_eq, h32, h64]
  by_cases hfixed : w &&& 0xBFE08000#32 = 0x88008000#32
  · by_cases hones : w.extractLsb' 10 5 = 0b11111#5
    · cases hsize : w[30] <;> simp [hfixed, hones, instrOfFields, hsize]
    · simp [hfixed, hones]
  · simp [hfixed]

theorem decode_eq_instr_iff (w : Word) (i : Instr) : decode w = .instr i
    ↔ (w &&& 0xBFE08000#32 = 0x88008000#32 ∧ w.extractLsb' 10 5 = 0b11111#5) ∧ instrOfFields w = i := by
  rw [decode_eq]
  split_ifs with hfixed hones
  · simp [hfixed, hones]
  · simp [hones]
  · simp [hfixed]

theorem decode_eq_sboViolation_iff (w : Word) (i : Instr) : decode w = .sboViolation i
    ↔ (w &&& 0xBFE08000#32 = 0x88008000#32 ∧ w.extractLsb' 10 5 ≠ 0b11111#5) ∧ instrOfFields w = i := by
  rw [decode_eq]
  split_ifs with hfixed hones
  · simp [hones]
  · simp [hfixed, hones]
  · simp [hfixed]

/-- The instruction of a word's fields has bit 30's size and the word's operands (R75). -/
theorem instrOfFields_operands (w : Word) :
    (instrOfFields w).size = (if w.getLsbD 30 then .doubleword else .word) ∧ (instrOfFields w).rs = fieldRs w
      ∧ (instrOfFields w).rn = fieldRn w ∧ (instrOfFields w).rt = fieldRt w := by
  unfold instrOfFields
  split_ifs <;> exact ⟨rfl, rfl, rfl, rfl⟩

/-- Settles O3, from the decoder's two tests. -/
theorem decodesIffFieldsMatchTheDiagram : Obligations.DecodesIffFieldsMatchTheDiagram := by
  intro w
  refine ⟨?_, fun i h => ?_⟩
  · simp [decode_eq_instr_iff, and_mask_eq_sbo_iff, and_assoc]
  · obtain ⟨-, rfl⟩ := (decode_eq_instr_iff w i).mp h
    exact instrOfFields_operands w

/-- Settles O4, from the decoder's two tests. -/
theorem sboViolationIffShouldBeOneBitsBroken : Obligations.SboViolationIffShouldBeOneBitsBroken := by
  intro w
  refine ⟨?_, fun i h => ?_⟩
  · simp [decode_eq_sboViolation_iff, and_mask_eq_sbo_iff, and_assoc]
  · obtain ⟨-, rfl⟩ := (decode_eq_sboViolation_iff w i).mp h
    exact instrOfFields_operands w

/-! ### The decoder and the encoder (R71, R74, R77) -/

/-- A word is its fields, one after the other (R71). -/
theorem append_fields_eq (w : Word) :
    w.extractLsb' 21 11 ++ fieldRs w ++ w.extractLsb' 10 6 ++ fieldRn w ++ fieldRt w = w := by
  simp only [fieldRs, fieldRn, fieldRt]
  iterate 4 rw [BitVec.extractLsb'_append_extractLsb'_eq_extractLsb' (by rfl)]
  exact BitVec.extractLsb'_eq_self

theorem instrOfFields_eq_iff (w : Word) (i : Instr) : instrOfFields w = i
    ↔ w.getLsbD 30 = (i.size == .doubleword) ∧ fieldRs w = i.rs ∧ fieldRn w = i.rn ∧ fieldRt w = i.rt := by
  cases hsize : w[30] <;> cases i <;> simp [instrOfFields, hsize, Instr.size, Instr.rs, Instr.rn, Instr.rt]

/-- A word decodes to an instruction when each of its fields is the one the encoder writes. -/
theorem decode_eq_instr_iff_fields (w : Word) (i : Instr) : decode w = .instr i
    ↔ (w.extractLsb' 21 11 = i.size.field ++ 0b001000000#9 ∧ w.extractLsb' 10 6 = 0b111111#6)
      ∧ fieldRs w = i.rs ∧ fieldRn w = i.rn ∧ fieldRt w = i.rt := by
  rw [decode_eq_instr_iff, instrOfFields_eq_iff, size_fields_iff, and_assoc (c := fieldRs w = i.rs ∧ _)]

/-- Settles O1: each field of the encoded word is the one the encoder wrote. -/
theorem decodeOfEncodeIsTheInstruction : Obligations.DecodeOfEncodeIsTheInstruction := fun i =>
  (decode_eq_instr_iff_fields (encode i) i).mpr
    ⟨⟨encode_bits_31_21 i, encode_bits_15_10 i⟩, fieldRs_encode i, fieldRn_encode i, fieldRt_encode i⟩

/-- Settles O2: the word and the encoded one agree in each field. -/
theorem encodeOfDecodeIsTheWord : Obligations.EncodeOfDecodeIsTheWord := by
  intro w i h
  obtain ⟨⟨hhigh, hlow⟩, hrs, hrn, hrt⟩ := (decode_eq_instr_iff_fields w i).mp h
  rw [← append_fields_eq (encode i), encode_bits_31_21, encode_bits_15_10, fieldRs_encode, fieldRn_encode,
    fieldRt_encode, ← hhigh, ← hlow, ← hrs, ← hrn, ← hrt, append_fields_eq]

/-- Settles O5: each word evaluated. -/
theorem wordsOfTheVectorsDecode : Obligations.WordsOfTheVectorsDecode := by
  unfold Obligations.WordsOfTheVectorsDecode
  decide

end Sys2Proof

namespace Sys2Proof.Machine

/-! ### The assembler (R79, R81, R82, R83) -/

/-- The name of a base number reads back as that number, 31 as `SP` (R82). -/
@[simp] theorem baseNumber_baseNameOf (n : RegNum) : baseNumber (baseNameOf n) = some n := by
  unfold baseNameOf
  split_ifs with h
  · simp [baseNumber, h]
  · simp [baseNumber, h]

/-- The line of an instruction assembles to it under every offset that may be written (R79, R83). -/
theorem assemble_disassemble_with_offset (i : Instr) (o : Option Nat) :
    assemble { disassemble i with offset := o } = if offsetAllowed o then some i else none := by
  cases i <;> simp [assemble, disassemble, dataWidth, Instr.size, Instr.rs, Instr.rn, Instr.rt]

/-- Settles O6: the offsets none and `#0` may be written, and no other. -/
theorem assembleOfDisassembleIsTheInstruction : Obligations.AssembleOfDisassembleIsTheInstruction :=
  fun i => ⟨assemble_disassemble_with_offset i none, assemble_disassemble_with_offset i (some 0), fun k hk => by
    rw [assemble_disassemble_with_offset, if_neg (by simpa [offsetAllowed] using hk)]⟩

/-! ### A should-be-one violation (R76, R141) -/

/-- Where a run may step, it does what the word at `pc` says (R141). -/
theorem nextAction_of_fetchWord {s : State} {w : Word} (hm : s.cfg.haveMte = false) (ho : s.outcome = none)
    (hpc : s.pc.toNat % 4 = 0) (hbase : s.cfg.base.toNat ≤ s.pc.toNat) (hend : s.pc.toNat < textEnd s.cfg)
    (hw : fetchWord s = some w) : nextAction s = wordAction s.cfg.sboPolicy w s.pc := by
  simp [nextAction, hm, ho, hpc, hw, hend.ne, hbase.not_gt, hend.not_gt]

/-- Settles O9: each policy's action is the step it names. -/
theorem stepOnShouldBeOneViolation : Obligations.StepOnShouldBeOneViolation := by
  intro s w i hm ho hpc hbase hend hw hd
  have hact : nextAction s = sboAction s.cfg.sboPolicy i s.pc := by
    rw [nextAction_of_fetchWord hm ho hpc hbase hend hw, wordAction, hd]
  refine ⟨fun hp => ?refuse, fun hp => ?undef, fun hp => ⟨s.retire, ?nop, ?_⟩, fun hp => ?ignore⟩
  case refuse | undef | nop | ignore => rw [step, hact, hp]; rfl
  · simp

end Sys2Proof.Machine
end

section
/-! PROOFS. The statements about one STLXR as a whole: its decode constants, the row of R110 each execution is, the two
overlaps under each constraint, the other edition's order of statements, its frame, and that its faults are precise. -/

namespace Sys2Proof

/-! ### The decode constants (R92, R93) -/

/-- Bits 14:10 of an encoded word are the five lower ones of bits 15:10 (R71). -/
theorem fieldRt2_encode (i : Instr) : fieldRt2 (encode i) = 31#5 :=
  ((extractLsb'_succ_eq_cons_iff (encode i) 10 5 true 31#5).mp (encode_bits_15_10 i)).2

/-- The decode pseudocode on an encoded word: the fixed bits give R93's constants, the fields give the numbers and the size. -/
theorem decodeConstants_encode (i : Instr) : decodeConstants (encode i) =
    { n := i.rn.toNat, t := i.rt.toNat, t2 := 31, s := i.rs.toNat, acctype := .orderedAtomic, pair := false,
      memop := .store, elsize := elsize i.size.field, regsize := elsize i.size.field,
      datasize := elsize i.size.field, tagChecked := i.rn != 31#5 } := by
  have hreg : (if elsize i.size.field = 64 then 64 else 32) = elsize i.size.field := by cases i <;> rfl
  have htag : (i.rn.toNat != 31) = (i.rn != 31#5) := by
    rw [Bool.eq_iff_iff, bne_iff_ne, bne_iff_ne, ← BitVec.toNat_inj.ne]
    rfl
  simp only [decodeConstants, fieldRs_encode, fieldRn_encode, fieldRt_encode, fieldRt2_encode, fieldSize_encode,
    fieldL_encode, fieldO0_encode, hreg, htag]
  rfl

theorem dbytes_word : AccessSize.word.dbytes = 4 := by decide

theorem dbytes_doubleword : AccessSize.doubleword.dbytes = 8 := by decide

/-- Settles O7, from the constants of an encoded word. -/
theorem decodeConstantsOfEveryWord : Obligations.DecodeConstantsOfEveryWord := by
  intro i
  rw [decodeConstants_encode]
  cases i with
  | stlxr32 rs rn rt => exact ⟨rfl, rfl, rfl, rfl, rfl, rfl, dbytes_word, rfl, rfl, rfl, rfl⟩
  | stlxr64 rs rn rt => exact ⟨rfl, rfl, rfl, rfl, rfl, rfl, dbytes_doubleword, rfl, rfl, rfl, rfl⟩

end Sys2Proof

namespace Sys2Proof.Machine

/-! ### The overlaps and the conditions of an access (R96, R97, R110) -/

theorem dataOverlaps_iff (i : Instr) : i.dataOverlaps = true ↔ i.rs = i.rt := by
  simp [Instr.dataOverlaps]

theorem baseOverlaps_iff (i : Instr) : i.baseOverlaps = true ↔ i.rs = i.rn ∧ i.rn ≠ 31#5 := by
  simp [Instr.baseOverlaps]

/-- The instruction goes on past both overlap checks, in the words of R96 and R97. -/
theorem goesOn_iff (i : Instr) (s : State) : goesOn i s = true ↔
    (i.rs ≠ i.rt ∨ s.cfg.constrainDataOverlap = .unknown ∨ s.cfg.constrainDataOverlap = .none)
      ∧ (¬(i.rs = i.rn ∧ i.rn ≠ 31#5) ∨ s.cfg.constrainBaseOverlap = .unknown
        ∨ s.cfg.constrainBaseOverlap = .none) := by
  simp only [goesOn, Bool.and_eq_true, Bool.or_eq_true, Bool.not_eq_true', beq_iff_eq, ← Bool.not_eq_true,
    dataOverlaps_iff, baseOverlaps_iff, or_assoc, ne_eq]

theorem reachesAccess_iff (i : Instr) (s : State) : reachesAccess i s = true ↔
    s.cfg.haveMte = false ∧ goesOn i s = true ∧ spCheckPasses i s = true
      ∧ meetsProgramText s.cfg (effectiveAddress i s) i.size = false := by
  simp [reachesAccess, and_assoc]

/-- The overlap check that ends the instruction is one under the constraint `c`: the data check, or the base check where the
data check has not ended it (R90, R96, R97). -/
def OverlapEndsUnder (c : Constraint) (i : Instr) (s : State) : Prop :=
  (i.dataOverlaps = true ∧ s.cfg.constrainDataOverlap = c)
    ∨ (¬(i.dataOverlaps = true ∧ (s.cfg.constrainDataOverlap = .undef ∨ s.cfg.constrainDataOverlap = .nop))
      ∧ i.baseOverlaps = true ∧ s.cfg.constrainBaseOverlap = c)

theorem OverlapEndsUnder.registers {c : Constraint} {i : Instr} {s : State} (h : OverlapEndsUnder c i s) :
    (i.rs = i.rt ∧ s.cfg.constrainDataOverlap = c)
      ∨ (i.rs = i.rn ∧ i.rn ≠ 31#5 ∧ s.cfg.constrainBaseOverlap = c) := by
  obtain ⟨hd, hc⟩ | ⟨-, hb, hc⟩ := h
  · exact .inl ⟨(dataOverlaps_iff i).mp hd, hc⟩
  · obtain ⟨hrs, hrn⟩ := (baseOverlaps_iff i).mp hb
    exact .inr ⟨hrs, hrn, hc⟩

/-- No overlap check ends an instruction that goes on. -/
theorem not_overlapEndsUnder_of_goesOn {c : Constraint} {i : Instr} {s : State} (hg : goesOn i s = true)
    (hc : c = .undef ∨ c = .nop) : ¬OverlapEndsUnder c i s := by
  intro h
  obtain ⟨hdata, hbase⟩ := (goesOn_iff i s).mp hg
  obtain ⟨hrs, rfl⟩ | ⟨hrs, hrn, rfl⟩ := h.registers
  · grind
  · grind

theorem overlapChecks_eq_undefined_iff (i : Instr) (s : State) :
    overlapChecks s.cfg i.rs i.rn i.rt = .undefined ↔ OverlapEndsUnder .undef i s := by
  obtain ⟨hg, ho⟩ | ⟨-, ho, hc⟩ | ⟨-, ho, hc⟩ := overlapChecks_cases i s
  · simp [ho, not_overlapEndsUnder_of_goesOn hg]
  · exact ⟨fun _ => hc, fun _ => ho⟩
  · simp only [ho, OverlapEndsUnder]
    grind

theorem overlapChecks_eq_endOfInstruction_iff (i : Instr) (s : State) :
    overlapChecks s.cfg i.rs i.rn i.rt = .endOfInstruction ↔ OverlapEndsUnder .nop i s := by
  obtain ⟨hg, ho⟩ | ⟨-, ho, hc⟩ | ⟨-, ho, hc⟩ := overlapChecks_cases i s
  · simp [ho, not_overlapEndsUnder_of_goesOn hg]
  · simp only [ho, OverlapEndsUnder]
    grind
  · exact ⟨fun _ => hc, fun _ => ho⟩

/-- An instruction that ends in an overlap check under UNDEF raises Undefined. -/
theorem exec_of_overlapEnds_undef {i : Instr} {s : State} (hm : s.cfg.haveMte = false)
    (h : OverlapEndsUnder .undef i s) : exec i s = .fault (.undefined s.pc) := by
  simp [exec_eq, storeReleaseExclusive, hm, (overlapChecks_eq_undefined_iff i s).mpr h, raise]

/-- An instruction that ends in an overlap check under NOP changes nothing but `pc`. -/
theorem exec_of_overlapEnds_nop {i : Instr} {s : State} (hm : s.cfg.haveMte = false)
    (h : OverlapEndsUnder .nop i s) : ∃ t, exec i s = .next t ∧ NopByConstraint i s t := by
  refine ⟨s.retire, ?_, retire_is_NopByConstraint i s⟩
  simp [exec_eq, storeReleaseExclusive, hm, (overlapChecks_eq_endOfInstruction_iff i s).mpr h]

/-! ### The access, completed or aborted (R52, R90, R91, R110) -/

/-- Everything an instruction that reaches its access can answer, each row of R110 with its condition. -/
theorem exec_cases_of_reachesAccess {i : Instr} {s : State} (hr : reachesAccess i s = true) :
    (∃ t, exec i s = .next t ∧ accessAllowed i s = true
      ∧ mayPass s.cfg s.mon (effectiveAddress i s) i.size = true
      ∧ Stored i (effectiveAddress i s) (effectiveData i s) s t)
    ∨ (∃ t, exec i s = .next t ∧ NotStored i s t)
    ∨ (exec i s = .fault (.dataAbort (abortKind (effectiveAddress i s) i.size) (effectiveAddress i s) s.pc)
      ∧ accessAllowed i s = false
      ∧ (mayPass s.cfg s.mon (effectiveAddress i s) i.size = true ∨ s.cfg.abortWhenMonitorFails ≠ .never)) := by
  have hadm := admitted_accessOutcome s (effectiveAddress i s) i.size
  cases ho : accessOutcome s (effectiveAddress i s) i.size with
  | success =>
    simp only [ho, admitted, wouldAbort_eq, Bool.and_eq_true, Bool.not_not] at hadm
    exact .inl ⟨_, (exec_of_reachesAccess hr).trans (congrArg _ ho), hadm.2, hadm.1,
      stored_is_Stored i s _ _ (haveMte_of_reachesAccess hr)⟩
  | fail => exact .inr (.inl (exec_notStored_of_fail hr ho))
  | abort kind =>
    simp only [ho, admitted, wouldAbort_eq, Bool.and_eq_true, Bool.or_eq_true, Bool.not_eq_true', bne_iff_ne,
      beq_iff_eq] at hadm
    obtain ⟨⟨-, ha⟩, hp⟩ := hadm
    exact .inr (.inr ⟨exec_dataAbort_of_ne_fail hr ha (by simp [ho]), ha, hp⟩)

/-- An instruction that reaches an access it may make completes. -/
theorem exec_completes {i : Instr} {s : State} (hr : reachesAccess i s = true) (ha : accessAllowed i s = true) :
    ∃ t, exec i s = .next t ∧ StoredOrNot i s t := by
  obtain ⟨t, he, -, hp, hst⟩ | ⟨t, he, hnot⟩ | ⟨-, hn, -⟩ := exec_cases_of_reachesAccess hr
  · exact ⟨t, he, .inl ⟨hp, hst⟩⟩
  · exact ⟨t, he, .inr hnot⟩
  · simp [ha] at hn

/-- Settles O17: the 32-bit variant is one of the instructions that complete at an access they may make. -/
theorem stlxr32Completes : Obligations.Stlxr32Completes :=
  fun _ _ _ _ => exec_completes

/-- Settles O18: so is the 64-bit variant. -/
theorem stlxr64Completes : Obligations.Stlxr64Completes :=
  fun _ _ _ _ => exec_completes

/-! ### The overlaps under each constraint (R96, R97, R98) -/

/-- An instruction that may make its access at `a` with the data `v` completes, and stores there if it stores. -/
theorem exec_stores_or_not {i : Instr} {s : State} {a v : DWord} (hr : reachesAccess i s = true)
    (hok : accessAllowed i s = true) (ha : effectiveAddress i s = a) (hv : effectiveData i s = v) :
    ∃ t, exec i s = .next t ∧ (Stored i a v s t ∨ NotStored i s t) := by
  subst ha hv
  obtain ⟨t, he, ⟨-, hst⟩ | hnot⟩ := exec_completes hr hok
  · exact ⟨t, he, .inl hst⟩
  · exact ⟨t, he, .inr hnot⟩

/-- An instruction that goes on to the address `a` outside the program text stores there, or does not store, or aborts
there. -/
theorem exec_accesses_or_aborts {i : Instr} {s : State} {a : DWord} (hm : s.cfg.haveMte = false)
    (hg : goesOn i s = true) (hsp : spCheckPasses i s = true) (ha : effectiveAddress i s = a)
    (hp : meetsProgramText s.cfg a i.size = false) :
    (∃ t, exec i s = .next t ∧ (Stored i a (effectiveData i s) s t ∨ NotStored i s t))
      ∨ ∃ kind, exec i s = .fault (.dataAbort kind a s.pc) := by
  subst ha
  obtain ⟨t, he, -, -, hst⟩ | ⟨t, he, hnot⟩ | ⟨he, -⟩ :=
    exec_cases_of_reachesAccess ((reachesAccess_iff i s).mpr ⟨hm, hg, hsp, hp⟩)
  · exact .inl ⟨t, he, .inl hst⟩
  · exact .inl ⟨t, he, .inr hnot⟩
  · exact .inr ⟨_, he⟩

/-- Settles O26: UNDEF and NOP end the instruction in its data check; under UNKNOWN and NONE the effective data is the free
value and the register's. -/
theorem dataOverlapUnderEachConstraint : Obligations.DataOverlapUnderEachConstraint := by
  intro i s hm hrs
  have hdata : i.dataOverlaps = true := (dataOverlaps_iff i).mpr hrs
  refine ⟨fun hc => exec_of_overlapEnds_undef hm (.inl ⟨hdata, hc⟩),
    fun hc => exec_of_overlapEnds_nop hm (.inl ⟨hdata, hc⟩),
    fun hc hr hok => exec_stores_or_not hr hok rfl ?unknown, fun hc hr hok => exec_stores_or_not hr hok rfl ?none⟩
  case unknown => simp [effectiveData, hdata, hc]
  case none => simp [effectiveData, hc]

/-- Settles O27: UNDEF and NOP end the instruction in its base check; under UNKNOWN and NONE it goes on to the free address and
to the register's. -/
theorem baseOverlapUnderEachConstraint : Obligations.BaseOverlapUnderEachConstraint := by
  intro i s hm hrs hrn hdata
  have hbase : i.baseOverlaps = true := (baseOverlaps_iff i).mpr ⟨hrs, hrn⟩
  have hpast : ¬(i.dataOverlaps = true
      ∧ (s.cfg.constrainDataOverlap = .undef ∨ s.cfg.constrainDataOverlap = .nop)) := by
    rw [dataOverlaps_iff]
    grind
  have hsp : spCheckPasses i s = true := by simp [spCheckPasses, hrn]
  have hgo (hc : s.cfg.constrainBaseOverlap = .unknown ∨ s.cfg.constrainBaseOverlap = .none) : goesOn i s = true :=
    (goesOn_iff i s).mpr ⟨hdata, .inr hc⟩
  refine ⟨fun hc => exec_of_overlapEnds_undef hm (.inr ⟨hpast, hbase, hc⟩),
    fun hc => exec_of_overlapEnds_nop hm (.inr ⟨hpast, hbase, hc⟩),
    fun hc => exec_accesses_or_aborts hm (hgo (.inl hc)) hsp ?unknown,
    fun hc => exec_accesses_or_aborts hm (hgo (.inr hc)) hsp ?none⟩
  case unknown => simp [effectiveAddress, hrn, hbase, hc]
  case none => simp [effectiveAddress, hrn, hc]

/-- Settles O28: number 31 is no base overlap, and a multiple of 16 passes the check and is aligned for both sizes. -/
theorem stackPointerBaseIsNoOverlap : Obligations.StackPointerBaseIsNoOverlap := by
  intro i s hm hrs hrn hdata hsp hp hacc
  have haddr : effectiveAddress i s = s.sp := if_pos hrn
  have hg : goesOn i s = true := (goesOn_iff i s).mpr ⟨by rwa [hrs, ne_comm], .inl (by simp [hrn])⟩
  have hr : reachesAccess i s = true :=
    (reachesAccess_iff i s).mpr ⟨hm, hg, by simp [spCheckPasses, hsp], by rwa [haddr]⟩
  have hok : accessAllowed i s = true := by
    rw [accessAllowed, haddr, hacc, Bool.and_true]
    exact aligned_of_mod_sixteen hsp i.size
  exact exec_stores_or_not hr hok haddr rfl

/-! ### The table of R110, and the other edition (R109) -/

/-- Settles O33: HAVE_MTE is a row of its own, and the other rows are the answers past the access and before it. -/
theorem everyExecutionIsARowOfTheTable : Obligations.EveryExecutionIsARowOfTheTable := by
  intro i s
  cases hm : s.cfg.haveMte with
  | true =>
    iterate 7 right
    exact .inl ⟨exec_of_haveMte i s hm, rfl⟩
  | false =>
    obtain ⟨hr, -⟩ | ⟨-, -, -, hp, he⟩ | ⟨-, -, hsp, he⟩ | ⟨-, -, he, ho⟩ | ⟨-, -, he, ho⟩ := exec_cases i s hm
    · obtain ⟨t, he, hok, hpass, hst⟩ | ⟨t, he, hnot⟩ | ⟨he, hok, hpass⟩ := exec_cases_of_reachesAccess hr
      · exact .inl ⟨t, he, hr, hok, hpass, hst⟩
      · exact .inr (.inl ⟨t, he, hr, hnot⟩)
      · rw [abortKind_eq] at he
        iterate 5 right
        split_ifs at he with hal
        · exact .inr (.inl ⟨he, hal, by simpa [accessAllowed, hal] using hok, hpass⟩)
        · exact .inl ⟨he, hal, hpass⟩
    · iterate 8 right
      exact ⟨he, hp⟩
    · iterate 4 right
      exact .inl ⟨he, (spCheckPasses_eq_false_iff i s).mp hsp⟩
    · iterate 3 right
      exact .inl ⟨he, ((overlapChecks_eq_undefined_iff i s).mp ho).registers⟩
    · iterate 2 right
      exact .inl ⟨_, he, retire_is_NopByConstraint i s, ((overlapChecks_eq_endOfInstruction_iff i s).mp ho).registers⟩

/-- Without HAVE_MTE the mark stays as it was (R31, R95). -/
theorem State.markTagChecked_of_not_haveMte {s : State} (hm : s.cfg.haveMte = false) (rn : RegNum) :
    s.markTagChecked rn = s := by
  simp [State.markTagChecked, hm]

/-- Settles O34: with HAVE_MTE both orders refuse, and without it the moved mark changes nothing. -/
theorem bothEditionsBehaveTheSame : Obligations.BothEditionsBehaveTheSame := by
  intro i s
  rw [exec_eq, storeReleaseExclusive, storeReleaseExclusiveE202006]
  cases hm : s.cfg.haveMte with
  | true => rfl
  | false => simp only [State.markTagChecked_of_not_haveMte hm]

/-- Settles O35: every row that answers a next state completes. -/
theorem frameOfRegistersAndSpecialState : Obligations.FrameOfRegistersAndSpecialState := by
  intro i s t he
  obtain ⟨hpc, hregs, hsp, hdit, htag, hout, hcfg⟩ := exec_next_completes he
  exact ⟨hregs, hsp, hdit, fun _ => htag, hout, hcfg, hpc⟩

/-! ### Faults (R103, R128, R129) -/

/-- A fault of an instruction names the state's `pc`. -/
theorem exec_fault_pc {i : Instr} {s : State} {f : Fault} (h : exec i s = .fault f) : f.pc = s.pc := by
  cases hm : s.cfg.haveMte with
  | true => simp [exec_of_haveMte i s hm] at h
  | false =>
    obtain ⟨hr, -⟩ | ⟨-, -, -, -, he⟩ | ⟨-, -, -, he⟩ | ⟨-, -, he, -⟩ | ⟨-, -, he, -⟩ := exec_cases i s hm
    · obtain ⟨t, he, -⟩ | ⟨t, he, -⟩ | ⟨he, -⟩ := exec_cases_of_reachesAccess hr
      all_goals cases he.symm.trans h
      rfl
    all_goals cases he.symm.trans h
    all_goals rfl

/-- A fault the fetched word stands for names the `pc` it was fetched from. -/
theorem wordAction_fault_pc {p : SboPolicy} {w : Word} {pc : DWord} {f : Fault} (h : wordAction p w pc = .fault f) :
    f.pc = pc := by
  unfold wordAction at h
  cases hd : decode w with
  | instr i => simp [hd] at h
  | sboViolation i =>
    cases p <;> simp only [hd, sboAction, Action.fault.injEq, reduceCtorEq] at h
    rw [← h]
    rfl
  | notInScope => simp [hd] at h

/-- A fault of the run loop before the instruction's meaning names the state's `pc`, where no outcome is recorded. -/
theorem nextAction_fault_pc {s : State} {f : Fault} (ho : s.outcome = none) (h : nextAction s = .fault f) :
    f.pc = s.pc := by
  simp only [nextAction, ho] at h
  split_ifs at h
  · rw [← Action.fault.inj h]
    rfl
  · cases hw : fetchWord s with
    | none => simp [hw] at h
    | some w =>
      rw [hw] at h
      exact wordAction_fault_pc h

/-- A fault of a step names the state's `pc`, where no outcome is recorded. -/
theorem step_fault_pc {s : State} {f : Fault} (ho : s.outcome = none) (h : step s = .fault f) : f.pc = s.pc := by
  unfold step at h
  cases hn : nextAction s with
  | execute i =>
    rw [hn] at h
    exact exec_fault_pc h
  | completeOnly => simp [hn] at h
  | fault g =>
    simp only [hn, Host.Outcome.fault.injEq] at h
    exact nextAction_fault_pc ho (h ▸ hn)
  | refuse r => simp [hn] at h

/-- Settles O12: every fault is raised at the state's `pc`, and the run loop records it where nothing was recorded. -/
theorem faultsArePrecise : Obligations.FaultsArePrecise := by
  intro s f ho hf
  refine ⟨step_fault_pc ho hf, ?_⟩
  simp only [runLoop, hf, State.record, ho]
  rfl

end Sys2Proof.Machine
end

section
/-! PROOFS. The statements about exceptions: a recorded outcome stays, and the order of the exceptions of one STLXR. -/

namespace Sys2Proof.Machine

/-! ### A recorded outcome (R129, R141, R142) -/

/-- A recorded outcome is not recorded over. -/
theorem State.record_of_terminal {s : State} (h : s.terminal = true) (r : Terminal) : s.record r = s := by
  obtain ⟨t, ht⟩ := Option.isSome_iff_exists.mp h
  have hkeep : (s.outcome <|> some r) = s.outcome := by
    rw [ht]
    rfl
  rw [State.record, hkeep]

/-- A step answers no next state where an outcome is recorded. -/
theorem step_ne_next_of_terminal {s : State} (h : s.terminal = true) (t : State) : step s ≠ .next t := by
  intro hs
  obtain ⟨-, ho, -⟩ := step_next hs
  simp [State.terminal, ho] at h

/-- One turn of the run loop leaves a state with a recorded outcome as it is. -/
theorem runLoop_of_terminal {s : State} (h : s.terminal = true) : runLoop s = s := by
  unfold runLoop
  split
  next t hs => exact absurd hs (step_ne_next_of_terminal h t)
  next => exact State.record_of_terminal h _
  next => rfl
  next => exact State.record_of_terminal h _

/-- A run that recorded an outcome is not over in the sense of R142. -/
theorem final_eq_false_of_terminal {s : State} (h : s.terminal = true) : s.final = false := by
  rw [State.final, Option.isNone_eq_false_iff.mpr h, Bool.and_false]

/-- Settles O11: such a state is a fixed point of the run loop. -/
theorem recordedOutcomeIsTerminal : Obligations.RecordedOutcomeIsTerminal :=
  fun _ k h => ⟨Function.iterate_fixed (runLoop_of_terminal h) k, final_eq_false_of_terminal h⟩

/-! ### The order of the exceptions of one STLXR (R126) -/

/-- An abort is of kind Alignment exactly at a misaligned address (R52). -/
theorem abortKind_eq_alignment_iff (a : DWord) (sz : AccessSize) :
    abortKind a sz = .alignment ↔ a.toNat % sz.dbytes ≠ 0 := by
  rw [abortKind_eq]
  split_ifs with h <;> simp [h]

/-- A data abort is raised only by an access that is reached, at its address and with the kind of that address (R52). -/
theorem reachesAccess_of_exec_dataAbort {i : Instr} {s : State} {kind : AbortKind} {a pc : DWord}
    (hm : s.cfg.haveMte = false) (h : exec i s = .fault (.dataAbort kind a pc)) :
    reachesAccess i s = true ∧ a = effectiveAddress i s ∧ kind = abortKind a i.size := by
  obtain ⟨hr, -⟩ | ⟨-, -, -, -, he⟩ | ⟨-, -, -, he⟩ | ⟨-, -, he, -⟩ | ⟨-, -, he, -⟩ := exec_cases i s hm
  · obtain ⟨t, he, -⟩ | ⟨t, he, -⟩ | ⟨he, -⟩ := exec_cases_of_reachesAccess hr
    all_goals cases he.symm.trans h
    exact ⟨hr, rfl, rfl⟩
  all_goals cases he.symm.trans h

/-- Settles O32: the overlap check that ends the instruction answers first, then the check of the stack pointer, and an
abort comes only from an access behind both. -/
theorem exceptionPriority : Obligations.ExceptionPriority := by
  intro i s hm
  refine ⟨fun hd hc => exec_of_overlapEnds_undef hm (.inl ⟨hd, hc⟩),
    fun hpast hb hc => exec_of_overlapEnds_undef hm (.inr ⟨hpast, hb, hc⟩),
    fun hd hc => exec_of_overlapEnds_nop hm (.inl ⟨hd, hc⟩),
    fun hpast hb hc => exec_of_overlapEnds_nop hm (.inr ⟨hpast, hb, hc⟩),
    exec_of_spCheck_fails hm, fun kind a pc he => ?_⟩
  obtain ⟨hr, -, rfl⟩ := reachesAccess_of_exec_dataAbort hm he
  obtain ⟨-, hg, hsp, -⟩ := (reachesAccess_iff i s).mp hr
  exact ⟨hg, hsp, abortKind_eq_alignment_iff a i.size⟩

end Sys2Proof.Machine
end

section
/-! PROOFS. The statements about the run loop: which test answers a step, how a run ends, and what every run of some number of
steps does to the configuration, the draws and `pc`. -/

namespace Sys2Proof.Machine

/-! ### The tests before the instruction (R141, R142) -/

/-- A machine with tagging is refused before any other test (D17). -/
theorem step_of_haveMte {s : State} (hm : s.cfg.haveMte = true) : step s = .refused .taggingConfigured := by
  simp [step, nextAction, hm]

/-- A recorded fault is answered again (log 11). -/
theorem step_of_faulted {s : State} {f : Fault} (hm : s.cfg.haveMte = false) (ho : s.outcome = some (.faulted f)) :
    step s = .fault f := by
  simp [step, nextAction, terminalAction, hm, ho]

/-- A recorded refusal is answered again (log 11). -/
theorem step_of_refused {s : State} {r : Refusal} (hm : s.cfg.haveMte = false) (ho : s.outcome = some (.refused r)) :
    step s = .refused r := by
  simp [step, nextAction, terminalAction, hm, ho]

section
variable {s : State} (hm : s.cfg.haveMte = false) (ho : s.outcome = none)
include hm ho

/-- At the end of the program the run is over, on a word boundary or not (log 10). -/
theorem step_of_pc_eq_textEnd (hpc : s.pc.toNat = textEnd s.cfg) : step s = .refused .runOver := by
  simp [step, nextAction, hm, ho, hpc]

/-- Off the end of the program, a `pc` off a word boundary faults (R25). -/
theorem step_of_pc_misaligned (hend : s.pc.toNat ≠ textEnd s.cfg) (hpc : s.pc.toNat % 4 ≠ 0) :
    step s = .fault (.pcAlignment s.pc) := by
  simp [step, nextAction, hm, ho, hend, hpc]

/-- A fetch below the text or past its end is refused. -/
theorem step_of_pc_outside_text (hpc : s.pc.toNat % 4 = 0) (hend : s.pc.toNat ≠ textEnd s.cfg)
    (hout : s.pc.toNat < s.cfg.base.toNat ∨ textEnd s.cfg < s.pc.toNat) :
    step s = .refused .fetchOutsideProgram := by
  simp [step, nextAction, hm, ho, hpc, hend, hout]

/-- Inside the text, a step does what the fetched word's verdict says. -/
theorem step_of_fetchWord {w : Word} (hpc : s.pc.toNat % 4 = 0) (hbase : s.cfg.base.toNat ≤ s.pc.toNat)
    (hend : s.pc.toNat < textEnd s.cfg) (hw : fetchWord s = some w) :
    (∀ i, decode w = .instr i → step s = exec i s) ∧ (decode w = .notInScope → step s = .refused .notInScope) := by
  rw [step, nextAction_of_fetchWord hm ho hpc hbase hend hw, wordAction]
  exact ⟨fun i hd => by rw [hd], fun hd => by rw [hd]⟩

end

/-- Settles O8: the fetched word's verdict is an instruction. -/
theorem stepRunsTheDecodedInstruction : Obligations.StepRunsTheDecodedInstruction :=
  fun _ _ i hm ho hpc hbase hend hw hd => (step_of_fetchWord hm ho hpc hbase hend hw).1 i hd

/-- Settles O10, one lemma per test; a `pc` past the end of the text is not at the end. -/
theorem stepStopsWhereTheRunLoopSays : Obligations.StepStopsWhereTheRunLoopSays := by
  refine fun s => ⟨step_of_haveMte, fun hm f => step_of_faulted hm, fun hm r => step_of_refused hm, fun hm ho =>
    ⟨step_of_pc_eq_textEnd hm ho, step_of_pc_misaligned hm ho, fun hpc hout => ?outside,
      fun hpc hbase hend w hw => (step_of_fetchWord hm ho hpc hbase hend hw).2⟩⟩
  case outside =>
    obtain ⟨hlo, hend⟩ | hhi := hout
    · exact step_of_pc_outside_text hm ho hpc hend (.inl hlo)
    · exact step_of_pc_outside_text hm ho hpc hhi.ne' (.inr hhi)

/-! ### How a run ends (R20, R141, R142) -/

/-- No fetched word answers that the run is over. -/
theorem wordAction_ne_runOver (p : SboPolicy) (w : Word) (pc : DWord) : wordAction p w pc ≠ .refuse .runOver := by
  unfold wordAction
  cases decode w with
  | instr i => simp
  | sboViolation i => cases p <;> simp [sboAction]
  | notInScope => simp

/-- Where no outcome is recorded, only the end of the program answers that the run is over (log 10). -/
theorem pc_eq_textEnd_of_nextAction_runOver {s : State} (ho : s.outcome = none)
    (h : nextAction s = .refuse .runOver) : s.pc.toNat = textEnd s.cfg := by
  simp only [nextAction, ho] at h
  split_ifs at h with hm hend
  · simp at h
  · exact hend
  · simp at h
  · cases hw : fetchWord s with
    | none => simp [hw] at h
    | some w =>
      rw [hw] at h
      exact absurd h (wordAction_ne_runOver _ _ _)

/-- The same of a step: no instruction answers that the run is over. -/
theorem pc_eq_textEnd_of_step_runOver {s : State} (ho : s.outcome = none) (h : step s = .refused .runOver) :
    s.pc.toNat = textEnd s.cfg := by
  unfold step at h
  cases hn : nextAction s with
  | execute i =>
    rw [hn] at h
    exact absurd h (exec_ne_runOver i s)
  | completeOnly => simp [hn] at h
  | fault f => simp [hn] at h
  | refuse r =>
    simp only [hn, Host.Outcome.refused.injEq] at h
    exact pc_eq_textEnd_of_nextAction_runOver ho (h ▸ hn)

/-- The run loop goes to the next state of a step. -/
theorem runLoop_of_next {s t : State} (h : step s = .next t) : runLoop s = t := by
  simp only [runLoop, h]

/-- A run that is over takes no step. -/
theorem runLoop_of_runOver {s : State} (h : step s = .refused .runOver) : runLoop s = s := by
  simp only [runLoop, h]

/-- The run loop records every other refusal (log 11). -/
theorem runLoop_of_refused {s : State} {r : Refusal} (hr : r ≠ .runOver) (h : step s = .refused r) :
    runLoop s = s.record (.refused r) := by
  rw [runLoop, h]
  cases r with
  | runOver => exact absurd rfl hr
  | _ => rfl

/-- Where nothing is recorded, recording an outcome changes that alone. -/
theorem State.record_of_outcome_none {s : State} (ho : s.outcome = none) (r : Terminal) :
    s.record r = { s with outcome := some r } := by
  simp [State.record, ho]

/-- Settles O44: the run loop's three answers, and `runOver` comes only at the end of the program. -/
theorem runLoopRecordsHowARunEnds : Obligations.RunLoopRecordsHowARunEnds := by
  refine fun s => ⟨fun t => runLoop_of_next, fun ho r hr h => ?refused, fun ho h => ⟨runLoop_of_runOver h, ?final⟩⟩
  case refused =>
    rw [runLoop_of_refused hr h, State.record_of_outcome_none ho]
    exact ⟨rfl, rfl⟩
  case final => simp [State.final, pc_eq_textEnd_of_step_runOver ho h, ho]

/-! ### Runs of some number of steps (R141, R145) -/

/-- A run of one step more is a step and a run from where it gets to. -/
theorem runSteps_succ_next_iff {k : Nat} {s t : State} :
    runSteps (k + 1) s = .next t ↔ ∃ v, step s = .next v ∧ runSteps k v = .next t := by
  rw [runSteps]
  cases step s <;> simp

/-- A run of one step more is a run and a step from where it gets to. -/
theorem runSteps_succ_next_last {k : Nat} {s t : State} (h : runSteps (k + 1) s = .next t) :
    ∃ u, runSteps k s = .next u ∧ step u = .next t := by
  induction k generalizing s with
  | zero =>
    obtain ⟨v, hstep, hrun⟩ := runSteps_succ_next_iff.mp h
    exact ⟨s, rfl, hstep.trans hrun⟩
  | succ k ih =>
    obtain ⟨v, hstep, hrun⟩ := runSteps_succ_next_iff.mp h
    obtain ⟨u, hu, hlast⟩ := ih hrun
    exact ⟨u, runSteps_succ_next_iff.mpr ⟨v, hstep, hu⟩, hlast⟩

/-- What holds at the start of a run, and is kept by each step after `k` others, holds where the run gets to. -/
theorem runSteps_induction {s : State} {P : Nat → State → Prop} (start : P 0 s)
    (next : ∀ k u t, P k u → step u = .next t → P (k + 1) t) {k : Nat} {t : State} (h : runSteps k s = .next t) :
    P k t := by
  induction k generalizing t with
  | zero => exact Host.Outcome.next.inj h ▸ start
  | succ k ih =>
    obtain ⟨u, hrun, hstep⟩ := runSteps_succ_next_last h
    exact next k u t (ih hrun) hstep

/-- Settles O13: no step changes the configuration. -/
theorem configurationIsConstantInARun : Obligations.ConfigurationIsConstantInARun := by
  intro k s t
  refine runSteps_induction (P := fun _ u => u.cfg = s.cfg) rfl fun _ u v hu hstep => ?_
  obtain ⟨-, hcfg, -, -⟩ := step_next_effect hstep
  exact hcfg.trans hu

/-- Under the invariant `pc` moves forward by 4 at each step, without wrapping. -/
theorem step_next_pc_toNat {s t : State} (hinv : s.inv = true) (h : step s = .next t) :
    t.pc.toNat = s.pc.toNat + 4 := by
  obtain ⟨-, hbase, hend, hpc, -, -, -⟩ := (State.inv_iff s).mp hinv
  obtain ⟨-, -, -, -, hlt, -⟩ := step_next h
  obtain ⟨htpc, -, -, -⟩ := step_next_effect h
  rw [htpc]
  exact (toNat_add_four_of_lt_textEnd hbase hend hpc hlt).1

/-- A run of `k` steps keeps the invariant and moves `pc` forward by `4 * k`, without wrapping. -/
theorem runSteps_inv_and_pc_toNat {k : Nat} {s t : State} (hinv : s.inv = true) :
    runSteps k s = .next t → t.inv = true ∧ t.pc.toNat = s.pc.toNat + 4 * k := by
  refine runSteps_induction (P := fun j u => u.inv = true ∧ u.pc.toNat = s.pc.toNat + 4 * j) ⟨hinv, rfl⟩ ?_
  intro j u v ⟨hu, hpc⟩ hstep
  exact ⟨stepKeepsTheRunInvariant u v hu hstep, by rw [step_next_pc_toNat hu hstep, hpc, Nat.mul_succ, Nat.add_assoc]⟩

/-- Settles O14: the invariant bounds `pc` by the end of the text, and each step uses up one word. -/
theorem runTakesAtMostOneStepPerWord : Obligations.RunTakesAtMostOneStepPerWord := by
  intro k s t hinv hstart h
  obtain ⟨htinv, hpc⟩ := runSteps_inv_and_pc_toNat hinv h
  obtain ⟨-, -, -, -, -, hle, -⟩ := (State.inv_iff t).mp htinv
  rw [configurationIsConstantInARun k s t h, textEnd] at hle
  rw [hstart] at hpc
  exact ⟨by omega, hpc⟩

/-- A step that answers a next state leaves the draw of its counter, and the counter one further on (log 9). -/
theorem step_next_draw {s t : State} (h : step s = .next t) :
    t.draw = Draw.fresh s.drawIndex ∧ t.drawIndex = s.drawIndex + 1 := by
  obtain ⟨-, -, -, -, -, ⟨i, hexec⟩ | rfl⟩ := step_next h
  · exact exec_next_draw hexec
  · exact ⟨rfl, rfl⟩

/-- A run of `k` steps leaves the counter `k` further on. -/
theorem runSteps_drawIndex {k : Nat} {s t : State} : runSteps k s = .next t → t.drawIndex = s.drawIndex + k :=
  runSteps_induction (P := fun j u => u.drawIndex = s.drawIndex + j) rfl fun j u v hu hstep => by
    rw [(step_next_draw hstep).2, hu, Nat.add_assoc]

/-- Settles O43: the last step of a run drew at the counter the steps before it left. -/
theorem everyStepDrawsAfresh : Obligations.EveryStepDrawsAfresh := by
  refine ⟨fun s t => step_next_draw, fun k s t h => ⟨runSteps_drawIndex h, fun hk => ?_⟩⟩
  obtain ⟨j, rfl⟩ := Nat.exists_eq_succ_of_ne_zero hk.ne'
  obtain ⟨u, hrun, hstep⟩ := runSteps_succ_next_last h
  rw [(step_next_draw hstep).1, runSteps_drawIndex hrun]
  rfl

end Sys2Proof.Machine
end

section
/-! PROOFS. The statement about the launch state the model names. -/

namespace Sys2Proof.Machine

/-- With no program loaded the text ends at its base. -/
theorem textEnd_of_prog_eq_nil {c : Config} (h : c.prog = []) : textEnd c = c.base.toNat := by
  simp [textEnd, h]

/-- A state at the base of an empty text, with nothing recorded, is final (R142). -/
theorem State.final_of_prog_eq_nil {s : State} (hprog : s.cfg.prog = []) (hpc : s.pc = s.cfg.base)
    (ho : s.outcome = none) : s.final = true := by
  simp [State.final, textEnd_of_prog_eq_nil hprog, hpc, ho]

/-- A state at the base of an empty text has the invariant of a run where its memory is canonical, the base is on a word
boundary and no tag-checked mark stands. -/
theorem State.inv_of_prog_eq_nil {s : State} (hprog : s.cfg.prog = []) (hpc : s.pc = s.cfg.base)
    (hmem : Memory.wf s.mem = true) (hbase : s.cfg.base.toNat % 4 = 0) (htag : s.tagChecked = none) :
    s.inv = true := by
  rw [State.inv_iff, textEnd_of_prog_eq_nil hprog, hpc]
  exact ⟨hmem, hbase, s.cfg.base.isLt, hbase, le_rfl, le_rfl, .inr htag⟩

/-- Settles O16: the launch state stands at the base of an empty text, and that base (log 3) is on a word boundary. -/
theorem resetHasTheRunInvariant : Obligations.ResetHasTheRunInvariant :=
  ⟨State.inv_of_prog_eq_nil rfl rfl reset_memory_wf (by decide) rfl, rfl, rfl, State.final_of_prog_eq_nil rfl rfl rfl⟩

end Sys2Proof.Machine
end
